-- ==== Sys2Proof/Word.lean ====
section
/-! DEFINITION. The widths of the values WIEGAND_CORE moves (00_scope.md R12, R15; 30_encoding.md R70, R71). Every value is
an unsigned bit vector, bit 0 least significant. -/

namespace Sys2Proof

/-- An 8-bit field or counter: `n8`, `REMAIN`, `POS` (R71, R26, R27). -/
abbrev Byte := BitVec 8

/-- `WORD = 32`, the width of the Transmitter's code words and of its mask (R12). -/
abbrev Word := BitVec 32

/-- A 64-bit operand or Encoder result: `v64`, `id`, `rawCode`, `code`, `result` (R71, R79). -/
abbrev Wide := BitVec 64

/-- One request word, always 80 bits (R70). -/
abbrev Request := BitVec 80

end Sys2Proof
end

