-- ==== Sys2Proof/Config.lean ====
section
/-! DEFINITION. What is fixed when the block is built (00_scope.md R10), and the two OPEN parameters of the environment
(92_eei_decisions.md D16, D17). -/

namespace Sys2Proof

/-- The build-time configuration. `encBits` is `ENC_BITS`, the Encoder's message width `B` (R10, R101). It is a count, so a
natural number; every value can be written down, and R77 says which ones refuse the block. -/
structure Config where
  encBits : Nat
deriving DecidableEq, Repr

/-- The default build: `ENC_BITS = 26` (R10). -/
def Config.standard : Config := { encBits := 26 }

/-- `TICK_PERIOD`, the time between two `TICK`s: OPEN, and no rule reads it (R13, R159). Log 11. -/
opaque Config.tickPeriod : Nat

/-- `MSG_GAP_TICKS`, the tick intervals a host lets pass between two jobs: OPEN, a host duty the block does not enforce
(70_reset_and_hazards.md R198). Log 11. -/
opaque Config.msgGapTicks : Nat

end Sys2Proof
end

