-- ==== Sys2Proof/Syntax.lean ====
section
/-! DEFINITION. The five requests of opcode_table.json (30_encoding.md R72). A field a request does not use is no operand of
it (R74). -/

namespace Sys2Proof

/-- One decoded request, its operands at the widths of R71 and R73. -/
inductive Instr where
  /-- `ENCODE_RAW facility, id` (40_encoder.md R102). -/
  | encodeRaw (facility : Byte) (id : Wide)
  /-- `ADD_PARITY rawCode` (R107). -/
  | addParity (rawCode : Wide)
  /-- `CODE facility, id` (R113). -/
  | code (facility : Byte) (id : Wide)
  /-- `SEND code, bitCount` (41_transmitter.md R132). -/
  | send (code : Wide) (bitCount : Byte)
  /-- `TICK` (R140). -/
  | tick
deriving DecidableEq, Repr

/-- The allocated operation codes (R72). -/
inductive OpCode where
  | encodeRaw | addParity | code | send | tick
deriving DecidableEq, Repr

/-- The operation a request asks for. -/
def Instr.opCode : Instr → OpCode
  | .encodeRaw _ _ => .encodeRaw
  | .addParity _   => .addParity
  | .code _ _      => .code
  | .send _ _      => .send
  | .tick          => .tick

end Sys2Proof
end

