-- ==== Sys2Proof/WellFormed.lean ====
section
/-! DEFINITION. Which builds and which requests keep the contract. Operand widths need no check: R71's fields are bit
vectors of their exact width. -/

namespace Sys2Proof

/-- `ENC_BITS` is even and from 10 to 64 (00_scope.md R10). Any other value refuses the block (30_encoding.md R77). -/
abbrev Config.Legal (c : Config) : Prop :=
  c.encBits % 2 = 0 ∧ 10 ≤ c.encBits ∧ c.encBits ≤ 64

/-- The operands keep the contract of 00_scope.md R11: `1 ≤ bitCount ≤ 64`. This is no decoding check (30_encoding.md R73) and
the machine does not read it: a `SEND` outside it still has the outcome R133 and R134 give it (log 16). -/
def Instr.wellFormed : Instr → Bool
  | .encodeRaw _ _   => true
  | .addParity _     => true
  | .code _ _        => true
  | .send _ bitCount => decide (1 ≤ bitCount.toNat ∧ bitCount.toNat ≤ 64)
  | .tick            => true

end Sys2Proof
end

