-- ==== Sys2Proof/Machine/State.lean ====
section
/-! DEFINITION. The state of WIEGAND_CORE (10_state.md), its reset value, and the reasons a step can stop
(60_exceptions.md R172, R174). -/

namespace Sys2Proof.Machine

/-- The values of `STATE` (10_state.md R21). `Machine.stateBits` (Machine/Flags.lean) gives their 2-bit codes. -/
inductive TxState where
  | idle | sending | receiving | unused
deriving DecidableEq, Repr

/-- The two lines; D0 carries 0-bits and D1 carries 1-bits (41_transmitter.md R130). -/
inductive Line where
  | d0 | d1
deriving DecidableEq, Repr

/-- The four line operations (41_transmitter.md R131; 90_conflicts.md C1). -/
inductive LineOp where
  | asInput | asOutput | driveLow | releaseHigh
deriving DecidableEq, Repr

/-- The driver state of a line (10_state.md R30). -/
inductive Driver where
  | float | outHigh | outLow
deriving DecidableEq, Repr

/-- The level a line observer sees (10_state.md R31). -/
inductive Level where
  | low | high
deriving DecidableEq, Repr

/-- One entry of a step's line-operation list (10_state.md R32 b). -/
structure LineEvent where
  line : Line
  op   : LineOp
deriving DecidableEq, Repr

/-- The response of a request (30_encoding.md R79). -/
inductive Response where
  /-- `TICK` answers nothing. -/
  | silent
  /-- The 64-bit `result` of an Encoder request. -/
  | result (value : Wide)
  /-- The 1-bit `accepted` of `SEND`. -/
  | accepted (taken : Bool)
deriving DecidableEq, Repr

/-- `ContractViolation(info)` (60_exceptions.md R172). -/
inductive Fault where
  /-- CV1, raised by `SEND` in `IDLE` with `bitCount` 0 or above 64. Safe: the spec faults here too. -/
  | badBitCount (bitCount : Byte)
  /-- CV2, raised by a line handed `driveLow` or `releaseHigh` while it floats. Safe: the spec faults here too, and no run
  from reset gets there (41_transmitter.md R157; log 6). -/
  | lineMisuse (line : Line) (op : LineOp)
deriving DecidableEq, Repr

/-- Why a step gives a request no meaning (60_exceptions.md R174). -/
inductive Refusal where
  /-- Raised by an arm of `exec` whose instruction has no meaning yet; none is left. Safe. -/
  | notModelled (mnemonic : String)
  /-- `ReservedOp(op)`, raised by the decoder (30_encoding.md R76). Safe: the spec refuses. -/
  | reservedOp (op : BitVec 3)
  /-- `ReservedBits(rsv)`, raised by the decoder (R76). Safe: the spec refuses. -/
  | reservedBits (rsv : BitVec 5)
  /-- The block was built with an illegal `ENC_BITS`, raised by every step of it (R77). Safe: the spec refuses. -/
  | illegalEncBits (encBits : Nat)
deriving DecidableEq, Repr

/-- The mark a stop leaves for the rest of the run (60_exceptions.md R173, R174). -/
inductive Mark where
  | clear
  | faulted (reason : Fault)
  | refused (reason : Refusal)
deriving DecidableEq, Repr

/-- Everything the block holds (10_state.md R20), its outputs (R32), the mark of a stop, its build parameter, and the
requests that wait on its port. -/
@[ext]
structure State where
  /-- `ENC_BITS`; no step writes it (R34; log 1). -/
  config   : Config
  /-- The request words still to be performed, in the total order of 20_memory.md R57, next first (log 2). -/
  port     : List Request
  /-- The fault or refusal mark (log 5). -/
  mark     : Mark
  /-- `STATE` (R21). -/
  txState  : TxState
  /-- `CODE`, the active code word (R23). -/
  code     : Word
  /-- `CODE_EXT`, the extension word (R24). -/
  codeExt  : Word
  /-- `MASK`, the falling bit cursor (R25). -/
  mask     : Word
  /-- `REMAIN`, the remaining-bit counter (R26). -/
  remain   : Byte
  /-- `POS`, the position counter (R27). -/
  pos      : Byte
  /-- `LD0`, the driver of line D0 (R30). -/
  ld0      : Driver
  /-- `LD1`, the driver of line D1 (R30). -/
  ld1      : Driver
  /-- The response of the latest request (R32 a; log 4). -/
  response : Response
  /-- The line operations of the latest request, first one first (R32 b; log 4). -/
  lineOps  : List LineEvent
deriving DecidableEq, Repr

/-- The block right after construction (10_state.md R42; 70_reset_and_hazards.md R190), built with the default `ENC_BITS`. The
outputs, the mark and the port are empty: DESIGN CHOICE (logs 4, 5, 7). -/
def State.reset : State :=
  { config   := Config.standard,
    port     := [],
    mark     := .clear,
    txState  := .idle,
    code     := 0#32,
    codeExt  := 0#32,
    mask     := 0#32,
    remain   := 0#8,
    pos      := 0#8,
    ld0      := .float,
    ld1      := .float,
    response := .silent,
    lineOps  := [] }

end Sys2Proof.Machine
end

