-- ==== Sys2Proof/Machine/Operands.lean ====
section
/-! DEFINITION. The operand forms: zero extension of the 8-bit facility (30_encoding.md R73), the Encoder's derived widths
(40_encoder.md R101), and the range check, word split and first mask of `SEND` (41_transmitter.md R134, R135). -/

namespace Sys2Proof.Machine

/-- `zext_64(facility)` (R15, R73). -/
def zext64 (v : Byte) : Wide := v.setWidth 64

/-- `B - 10`, the width of the id field (R101). -/
def idWidth (encBits : Nat) : Nat := encBits - 10

/-- `H = B/2 - 1`, the size of each parity group (R101). -/
def groupSize (encBits : Nat) : Nat := encBits / 2 - 1

/-- `bitCount` is 0 or above 64 (R134). -/
def badCount (bitCount : Byte) : Bool := decide (bitCount.toNat = 0 ∨ 64 < bitCount.toNat)

/-- The job needs two words (R12, R135). -/
def isWide (bitCount : Byte) : Bool := decide (32 < bitCount.toNat)

/-- `code[63:32]` (R135). -/
def highWord (code : Wide) : Word := code.extractLsb' 32 32

/-- `code[31:0]` (R135). -/
def lowWord (code : Wide) : Word := code.extractLsb' 0 32

/-- The word whose bits go out first (R135). -/
def firstWord (code : Wide) (bitCount : Byte) : Word :=
  if isWide bitCount then highWord code else lowWord code

/-- The first `MASK`: `1 << (bitCount - 33)` or `1 << (bitCount - 1)` (R135). -/
def firstMask (bitCount : Byte) : Word :=
  if isWide bitCount then 1#32 <<< (bitCount.toNat - 33) else 1#32 <<< (bitCount.toNat - 1)

/-- The top bit of a 32-bit word, which the carry-over loads (R146). -/
def topBit : Word := 0x80000000#32

end Sys2Proof.Machine
end

