-- ==== Sys2Proof/Machine/Flags.lean ====
section
/-! DEFINITION. The block has no flags and no condition codes (10_state.md R33). Here stand the single bits it computes and
shows: the two parity bits (40_encoder.md R108, R109), the code of `STATE` and the read-only `STATUS` (10_state.md R21, R32 d),
and the bus levels (R31). -/

namespace Sys2Proof.Machine

/-- `xor_range(v, lo, n) = v[lo] ^ ... ^ v[lo+n-1]`, 0 when `n = 0` (00_scope.md R18). -/
def xorRange (v : Wide) (lo : Nat) : Nat → Bool
  | 0     => false
  | n + 1 => xor (xorRange v lo n) (v.getLsbD (lo + n))

/-- The odd parity bit: seed 1 and the low group of the raw code (R109 step 2). -/
def oddParity (encBits : Nat) (rawCode : Wide) : Bool :=
  xor true (xorRange rawCode 0 (groupSize encBits))

/-- The even parity bit: seed 0 and the group above (R109 step 3). -/
def evenParity (encBits : Nat) (rawCode : Wide) : Bool :=
  xor false (xorRange rawCode (groupSize encBits) (groupSize encBits))

/-- The 2-bit code of a value of `STATE` (R21). -/
def stateBits : TxState → BitVec 2
  | .idle      => 0b00#2
  | .sending   => 0b01#2
  | .receiving => 0b10#2
  | .unused    => 0b11#2

/-- The read-only output `STATUS = STATE` (R32 d). -/
def statusOut (s : State) : BitVec 2 := stateBits s.txState

/-- The level of a driver on the bus with its pull-up: `LOW` only when driven low (R31). -/
def levelOf : Driver → Level
  | .float   => .high
  | .outHigh => .high
  | .outLow  => .low

/-- The bus level of a line (R31, R32 c). No other component drives it (R31; log 13). -/
def busLevel (s : State) : Line → Level
  | .d0 => levelOf s.ld0
  | .d1 => levelOf s.ld1

end Sys2Proof.Machine
end

