-- ==== Sys2Proof/Decode.lean ====
section
/-! DEFINITION. The request word and its decoder (30_encoding.md R70 to R78), total on every 80-bit word, and the encoder
written from the same table. -/

namespace Sys2Proof

/-- Why a request word is refused (R76). Safe: the word has no meaning in the spec. -/
inductive DecodeError where
  /-- `ReservedOp(op)`: `op` is `0b000`, `0b110` or `0b111`. -/
  | reservedOp (op : BitVec 3)
  /-- `ReservedBits(rsv)`: `op` is allocated and `rsv` is not zero. -/
  | reservedBits (rsv : BitVec 5)
deriving DecidableEq, Repr

/-- `op = word[2:0]` (R71). -/
def opField (w : Request) : BitVec 3 := w.extractLsb' 0 3

/-- `rsv = word[7:3]` (R71). -/
def rsvField (w : Request) : BitVec 5 := w.extractLsb' 3 5

/-- `n8 = word[15:8]` (R71). -/
def n8Field (w : Request) : Byte := w.extractLsb' 8 8

/-- `v64 = word[79:16]` (R71). -/
def v64Field (w : Request) : Wide := w.extractLsb' 16 64

/-- The operation codes of R72; the other three are reserved. -/
def opCodeOf (op : BitVec 3) : Option OpCode :=
  if op = 0b001#3 then some .encodeRaw
  else if op = 0b010#3 then some .addParity
  else if op = 0b011#3 then some .code
  else if op = 0b100#3 then some .send
  else if op = 0b101#3 then some .tick
  else none

/-- Operand assembly (R73): `n8` and `v64` are taken as they are, and a field the operation does not use is ignored (R74). -/
def operandsOf (k : OpCode) (n8 : Byte) (v64 : Wide) : Instr :=
  match k with
  | .encodeRaw => .encodeRaw n8 v64
  | .addParity => .addParity v64
  | .code      => .code n8 v64
  | .send      => .send v64 n8
  | .tick      => .tick

/-- The decoding algorithm of R78; `op` is checked before `rsv` (R76). -/
def decode (w : Request) : Except DecodeError Instr :=
  match opCodeOf (opField w) with
  | none => .error (.reservedOp (opField w))
  | some k =>
    if rsvField w = 0#5 then .ok (operandsOf k (n8Field w) (v64Field w))
    else .error (.reservedBits (rsvField w))

/-- The code of an operation in `op` (R72). -/
def opBits : OpCode → BitVec 3
  | .encodeRaw => 0b001#3
  | .addParity => 0b010#3
  | .code      => 0b011#3
  | .send      => 0b100#3
  | .tick      => 0b101#3

/-- The `n8` a request carries; zero where it carries none (R71). -/
def n8Of : Instr → Byte
  | .encodeRaw facility _ => facility
  | .addParity _          => 0#8
  | .code facility _      => facility
  | .send _ bitCount      => bitCount
  | .tick                 => 0#8

/-- The `v64` a request carries; zero where it carries none (R71). -/
def v64Of : Instr → Wide
  | .encodeRaw _ id    => id
  | .addParity rawCode => rawCode
  | .code _ id         => id
  | .send code _       => code
  | .tick              => 0#64

/-- The request word of a request, its reserved and unused fields zero (R71, R82). -/
def encode (i : Instr) : Request :=
  (v64Of i ++ n8Of i ++ 0b00000#5 ++ opBits i.opCode).cast (by decide)

/-- The request word whose low `nbits` bits are `w`, numbered as opcode_table.json numbers them, and whose other bits are
zero. -/
def tableWord (nbits w : Nat) : Request := BitVec.ofNat 80 (w % 2 ^ nbits)

/-- What `decode` reads from a table row's word; none where it refuses. -/
def decodeTableWord (nbits w : Nat) : Option Instr :=
  match decode (tableWord nbits w) with
  | .ok i    => some i
  | .error _ => none

end Sys2Proof
end

