-- ==== Sys2Proof/Machine/Ops.lean ====
section
/-! DEFINITION. The operations every request is built from: the outputs of a step, the line operations, the request port, and
the marks of a stop. The block takes no exception and returns from none (60_exceptions.md R170, R178). -/

namespace Sys2Proof.Machine

/-- The outcome of a request or of a part of it (00_scope.md R17). -/
abbrev Result := Host.Outcome State Fault Refusal

/-- Go on from a next state; a stop ends the step (R16, `raise` and `refuse`). -/
def andThen (o : Result) (f : State → Result) : Result :=
  match o with
  | .next s    => f s
  | .fault r   => .fault r
  | .refused r => .refused r

/-- A request begins with no response and an empty line-operation list (R16). -/
def State.openStep (s : State) : State := { s with response := .silent, lineOps := [] }

/-- `respond(x)` (R16). -/
def State.respond (r : Response) (s : State) : State := { s with response := r }

/-- `LD_L` (10_state.md R30). -/
def State.driver (s : State) : Line → Driver
  | .d0 => s.ld0
  | .d1 => s.ld1

/-- Write `LD_L`. -/
def State.setDriver (l : Line) (d : Driver) (s : State) : State :=
  match l with
  | .d0 => { s with ld0 := d }
  | .d1 => { s with ld1 := d }

/-- Append to the step's line-operation list (R16). -/
def State.logOp (l : Line) (op : LineOp) (s : State) : State :=
  { s with lineOps := s.lineOps ++ [{ line := l, op := op }] }

/-- The driver state an operation leaves behind (10_state.md R30). -/
def driverAfter : LineOp → Driver
  | .asInput     => .float
  | .asOutput    => .outHigh
  | .driveLow    => .outLow
  | .releaseHigh => .outHigh

/-- `driveLow` and `releaseHigh` are only defined on a line in output mode (10_state.md R30). -/
def misused (op : LineOp) (d : Driver) : Bool :=
  match op with
  | .asInput     => false
  | .asOutput    => false
  | .driveLow    => d == .float
  | .releaseHigh => d == .float

/-- `LineOp(L, op)` (R16, R30): it moves the driver and is listed, or it raises CV2 (60_exceptions.md R172). -/
def lineOp (l : Line) (op : LineOp) (s : State) : Result :=
  if misused op (s.driver l) then .fault (.lineMisuse l op)
  else .next ((s.setDriver l (driverAfter op)).logOp l op)

/-- The same operation on D0 and then on D1 (41_transmitter.md R143, R147, R149; 92_eei_decisions.md D11). -/
def bothLines (op : LineOp) (s : State) : Result :=
  andThen (lineOp .d0 op s) (lineOp .d1 op)

/-- The build is one the block runs with (30_encoding.md R77). -/
def State.built (s : State) : Bool := decide s.config.Legal

/-- Take the next request off the port, if one waits (20_memory.md R57). -/
def State.takeRequest (s : State) : Option (Request × State) :=
  match s.port with
  | []        => none
  | w :: rest => some (w, { s with port := rest })

/-- Offer a request as the next one to be performed. -/
def State.offerRequest (w : Request) (s : State) : State := { s with port := w :: s.port }

/-- The refusal a decoding error becomes (30_encoding.md R76). -/
def refusalOf : DecodeError → Refusal
  | .reservedOp op    => .reservedOp op
  | .reservedBits rsv => .reservedBits rsv

/-- The stop a mark stands for: a marked run never goes on (60_exceptions.md R173, R174). -/
def State.markedStop (s : State) : Option Result :=
  match s.mark with
  | .clear     => none
  | .faulted r => some (.fault r)
  | .refused r => some (.refused r)

/-- A stop's mark on a state: no register is written, and the step answers nothing and issues no line operation
(60_exceptions.md R173, R174; log 5). -/
def State.stopWith (m : Mark) (s : State) : State := { s.openStep with mark := m }

/-- Where a run stands after an outcome (60_exceptions.md R173, R174). -/
def State.settle (s : State) (o : Result) : State :=
  match o with
  | .next t    => t
  | .fault r   => s.stopWith (.faulted r)
  | .refused r => s.stopWith (.refused r)

end Sys2Proof.Machine
end

