-- ==== Sys2Proof/Machine/Encoder.lean ====
section
/-! DEFINITION. The Encoder requests `ENCODE_RAW`, `ADD_PARITY` and `CODE` (40_encoder.md). They read nothing but their
operands and `ENC_BITS`, and write nothing but the step's response (R100). -/

namespace Sys2Proof.Machine

/-- The raw code `(facility << (B-10)) | id` in 64-bit arithmetic (R103). -/
def packRaw (encBits : Nat) (facility : Byte) (id : Wide) : Wide :=
  (zext64 facility <<< idWidth encBits) ||| id

/-- The on-the-wire code `(raw << 1) | (even << (B-1)) | odd` (R109); bit 63 of the raw code is lost. -/
def attachParity (encBits : Nat) (rawCode : Wide) : Wide :=
  (rawCode <<< 1)
    ||| ((BitVec.ofBool (evenParity encBits rawCode)).setWidth 64 <<< (encBits - 1))
    ||| (BitVec.ofBool (oddParity encBits rawCode)).setWidth 64

/-- Answer an Encoder request: the result, no line operation, no register written (R100). -/
def answerResult (value : Wide) (s : State) : Result :=
  .next (s.openStep.respond (.result value))

/-- `ENCODE_RAW facility, id` (R103). -/
def execEncodeRaw (facility : Byte) (id : Wide) (s : State) : Result :=
  answerResult (packRaw s.config.encBits facility id) s

/-- `ADD_PARITY rawCode` (R109). -/
def execAddParity (rawCode : Wide) (s : State) : Result :=
  answerResult (attachParity s.config.encBits rawCode) s

/-- `CODE facility, id`: the packing and then the parity layout, same `B` (R114). -/
def execCode (facility : Byte) (id : Wide) (s : State) : Result :=
  answerResult (attachParity s.config.encBits (packRaw s.config.encBits facility id)) s

end Sys2Proof.Machine
end

