-- ==== Sys2Proof/Machine/Transmitter.lean ====
section
/-! DEFINITION. The Transmitter requests `SEND` and `TICK` (41_transmitter.md). -/

namespace Sys2Proof.Machine

/-- Latch a job (R135, R136): the first word and its mask, the extension word of a wide job only, `POS` 0, `REMAIN` the bit
count, `STATE` `SENDING`. -/
def State.latchJob (code : Wide) (bitCount : Byte) (s : State) : State :=
  { s with
    code    := firstWord code bitCount
    codeExt := if isWide bitCount then lowWord code else s.codeExt
    mask    := firstMask bitCount
    pos     := 0#8
    remain  := bitCount
    txState := .sending }

/-- `SEND code, bitCount` (R136): the busy rejection first (R133), then CV1 (R134), then the job. -/
def execSend (code : Wide) (bitCount : Byte) (s : State) : Result :=
  if s.txState ≠ .idle then .next (s.openStep.respond (.accepted false))
  else if badCount bitCount then .fault (.badBitCount bitCount)
  else .next ((s.openStep.latchJob code bitCount).respond (.accepted true))

/-- The phase of a tick, `POS[1:0]` (10_state.md R27; R142). -/
def State.phase (s : State) : BitVec 2 := s.pos.extractLsb' 0 2

/-- The bit `(CODE & MASK) != 0` that phase 0 sends (R144). -/
def State.currentBit (s : State) : Bool := s.code &&& s.mask != 0#32

/-- The line that carries a bit (R145). -/
def lineFor (bit : Bool) : Line := if bit then .d1 else .d0

/-- `writeBit(b)`: drive exactly one line low (R145). -/
def writeBit (bit : Bool) (s : State) : Result := lineOp (lineFor bit) .driveLow s

/-- The carry-over: at `MASK = 0` reload the mask and take the extension word (R146). -/
def State.carryOver (s : State) : State :=
  if s.mask = 0#32 then { s with mask := topBit, code := s.codeExt } else s

/-- The end of every non-terminal tick: the carry-over test, then `POS + 1` (R146, R150). -/
def State.endTick (s : State) : State := { s.carryOver with pos := s.pos + 1#8 }

/-- The first tick of a job switches both lines to output (R143). -/
def firstTick (s : State) : Result :=
  if s.pos = 0#8 then bothLines .asOutput s else .next s

/-- `MASK <- MASK >> 1` (R144). -/
def State.shiftMask (s : State) : State := { s with mask := s.mask >>> 1 }

/-- Phase 0: assert the pulse of the current bit (R144). -/
def assertPhase (s : State) : Result :=
  andThen (writeBit s.currentBit s) fun s => .next s.shiftMask.endTick

/-- `REMAIN <- REMAIN - 1` (R147). -/
def State.countBit (s : State) : State := { s with remain := s.remain - 1#8 }

/-- `STATE <- IDLE` (R149). -/
def State.toIdle (s : State) : State := { s with txState := .idle }

/-- The terminal tick: both lines to input, then `IDLE`, with no carry-over and no increment (R149). -/
def terminalTick (s : State) : Result :=
  andThen (bothLines .asInput s) fun s => .next s.toIdle

/-- Phase 1: release both lines, count the bit, and end the job when none is left (R147, R149). -/
def releasePhase (s : State) : Result :=
  andThen (bothLines .releaseHigh s) fun s =>
    if s.countBit.remain = 0#8 then terminalTick s.countBit else .next s.countBit.endTick

/-- Phases 2 and 3: no line activity (R148). -/
def gapPhase (s : State) : Result := .next s.endTick

/-- The phase action of a tick in `SENDING` (R142). -/
def phaseAction (s : State) : Result :=
  if s.phase = 0b00#2 then assertPhase s
  else if s.phase = 0b01#2 then releasePhase s
  else gapPhase s

/-- `TICK` (R151): nothing outside a job (R141). -/
def execTick (s : State) : Result :=
  if s.txState = .sending then andThen (firstTick s.openStep) phaseAction
  else .next s.openStep

end Sys2Proof.Machine
end

