-- ==== Sys2Proof/Machine/Dispatch.lean ====
section
/-! DEFINITION. One arm per request, each a direct call of its meaning. -/

namespace Sys2Proof.Machine

def exec (i : Instr) (s : State) : Host.Outcome State Fault Refusal :=
  match i with
  | .encodeRaw facility id => Sys2Proof.Machine.execEncodeRaw facility id s
  | .addParity rawCode => Sys2Proof.Machine.execAddParity rawCode s
  | .code facility id => Sys2Proof.Machine.execCode facility id s
  | .send code bitCount => Sys2Proof.Machine.execSend code bitCount s
  | .tick => Sys2Proof.Machine.execTick s

end Sys2Proof.Machine
end

