-- ==== Sys2Proof/Machine/Step.lean ====
section
/-! DEFINITION. One step of the block: one request, performed whole (00_scope.md R5; 20_memory.md R53, R57). -/

namespace Sys2Proof.Machine

/-- One step. A marked run stays stopped (60_exceptions.md R173, R174); an illegal build is refused before any request
(30_encoding.md R77); with no request waiting nothing changes (log 3); else the next request is decoded and performed. -/
def step (s : State) : Host.Outcome State Fault Refusal :=
  match s.markedStop with
  | some stop => stop
  | none =>
    if s.built then
      match s.takeRequest with
      | none => .next s
      | some (w, t) =>
        match decode w with
        | .ok i    => exec i t
        | .error e => .refused (refusalOf e)
    else .refused (.illegalEncBits s.config.encBits)

/-- `s` with the request of a table row's word at the front of its port, so that the next step performs it (log 7). -/
def State.withFetchWord (s : State) (nbits w : Nat) : State := s.offerRequest (tableWord nbits w)

end Sys2Proof.Machine
end

