-- ==== Sys2Proof/Safety.lean ====
section
/-! DEFINITION. The terms in which claims about WIEGAND_CORE are stated: counts of one bits, runs of ticks and what they put
on the lines, the invariants of 10_state.md section 5, what an observer sees, and marked runs (60_exceptions.md R173). -/

namespace Sys2Proof.Safety

open Sys2Proof.Machine

/-- How many of `v[lo], ..., v[lo+n-1]` are 1 (the counting behind "odd" and "even" in 00_scope.md R18). -/
def ones (v : Wide) (lo n : Nat) : Nat := (List.range n).countP fun i => v.getLsbD (lo + i)

/-- `TICK*k`: `k` ticks in a row and nothing between them (30_encoding.md R81). -/
def ticks : Nat → State → Result
  | 0, s     => .next s
  | k + 1, s => andThen (ticks k s) (exec .tick)

/-- The line operations of the step that ended here. -/
def opsOf : Result → List LineEvent
  | .next s    => s.lineOps
  | .fault _   => []
  | .refused _ => []

/-- All line operations of `TICK*k`, in time order. -/
def ticksOps : Nat → State → List LineEvent
  | 0, _     => []
  | k + 1, s => ticksOps k s ++ opsOf (ticks (k + 1) s)

/-- A pulse is a `driveLow`; it is seen on its line (41_transmitter.md R154). -/
def pulseOf (e : LineEvent) : Option Line := if e.op = .driveLow then some e.line else none

/-- The pulses among line operations, in time order. -/
def pulses (es : List LineEvent) : List Line := es.filterMap pulseOf

/-- `4*(n-1) + 2`, the ticks of a job of `n` bits (41_transmitter.md R155; 90_conflicts.md C2). -/
def jobTicks (n : Nat) : Nat := 4 * (n - 1) + 2

/-- The line of pulse `j` of a job: D1 when `code[n-1-j] = 1`, else D0 (R154, R156). -/
def pulseLine (code : Wide) (n j : Nat) : Line := if code.getLsbD (n - 1 - j) then .d1 else .d0

/-- The table of 41_transmitter.md R156: the line operations of the tick that finds `POS = p`. -/
def tickTable (code : Wide) (n p : Nat) : List LineEvent :=
  if p = 0 then [⟨.d0, .asOutput⟩, ⟨.d1, .asOutput⟩, ⟨pulseLine code n 0, .driveLow⟩]
  else if p % 4 = 0 then [⟨pulseLine code n (p / 4), .driveLow⟩]
  else if p = 4 * (n - 1) + 1 then
    [⟨.d0, .releaseHigh⟩, ⟨.d1, .releaseHigh⟩, ⟨.d0, .asInput⟩, ⟨.d1, .asInput⟩]
  else if p % 4 = 1 then [⟨.d0, .releaseHigh⟩, ⟨.d1, .releaseHigh⟩]
  else []

/-- Both lines are in input mode. -/
def Floating (s : State) : Prop := s.ld0 = .float ∧ s.ld1 = .float

/-- Both lines are driven low at once, which 10_state.md R40 rules out. -/
def BothLow (s : State) : Prop := s.ld0 = .outLow ∧ s.ld1 = .outLow

/-- The five items of 10_state.md R38, for a job accepted with operands `code` and `n`. -/
structure JobInvariant (code : Wide) (n : Nat) (s : State) : Prop where
  /-- Item 1. -/
  position  : s.pos.toNat ≤ 4 * (n - 1) + 1
  /-- Item 2. -/
  remaining : s.remain.toNat = n - (s.pos.toNat + 2) / 4 ∧ 1 ≤ s.remain.toNat ∧ s.remain.toNat ≤ n
  /-- Item 3: exactly one set bit. -/
  oneBit    : ∃ b < 32, s.mask.toNat = 2 ^ b
  /-- Item 4: the bit about to be sent. -/
  nextBit   : s.pos.toNat % 4 = 0 →
    (s.code &&& s.mask ≠ 0#32 ↔ code.getLsbD (n - 1 - s.pos.toNat / 4) = true)
  /-- Item 5. -/
  lines     : 0 < s.pos.toNat → s.ld0 ≠ .float ∧ s.ld1 ≠ .float ∧ ¬ BothLow s

/-- Where the cursor stands when `j` bits of a job have been shifted out: on bit `n-1-j` in the word that holds it, or, when
all are out, at the carry-over of the last bit (41_transmitter.md R146, R158). -/
def CursorAt (code : Wide) (n j : Nat) (s : State) : Prop :=
  if j < n then
    s.mask.toNat = 2 ^ ((n - 1 - j) % 32) ∧
      s.code.toNat = if 32 ≤ n - 1 - j then code.toNat / 2 ^ 32 else code.toNat % 2 ^ 32
  else s.mask.toNat = 2 ^ 31 ∧ s.code = s.codeExt

/-- The drivers during a job, after its first tick: the line of the current bit is low from its phase 0 to its phase 1, and
everything else is released (the bus view of 41_transmitter.md R156). -/
def LinesAt (code : Wide) (n : Nat) (s : State) : Prop :=
  if s.pos.toNat % 4 = 1 then
    if code.getLsbD (n - 1 - s.pos.toNat / 4) then s.ld0 = .outHigh ∧ s.ld1 = .outLow
    else s.ld0 = .outLow ∧ s.ld1 = .outHigh
  else s.ld0 = .outHigh ∧ s.ld1 = .outHigh

/-- The exact state of a job accepted with operands `code` and `n`, at the start of a request while `STATE = SENDING`. It is
10_state.md R38 made inductive: what R38 says of `CODE` and `MASK` in phase 0 only is said here at every position. -/
structure JobAt (code : Wide) (n : Nat) (s : State) : Prop where
  sending   : s.txState = .sending
  width     : 1 ≤ n ∧ n ≤ 64
  position  : s.pos.toNat ≤ 4 * (n - 1) + 1
  remaining : s.remain.toNat = n - (s.pos.toNat + 2) / 4
  extension : 32 < n → s.codeExt.toNat = code.toNat % 2 ^ 32
  cursor    : CursorAt code n ((s.pos.toNat + 3) / 4) s
  lines     : 0 < s.pos.toNat → LinesAt code n s

/-- The state 10_state.md R39 gives after the terminal tick of a job of `n` bits. -/
structure JobDone (n : Nat) (s : State) : Prop where
  idle     : s.txState = .idle
  remain   : s.remain = 0#8
  pos      : s.pos.toNat = 4 * (n - 1) + 1
  mask     : s.mask = 0x80000000#32
  code     : s.code = s.codeExt
  floating : Floating s

/-- A state a run from reset can be in (10_state.md R22, R38, R41; 60_exceptions.md R173): a legal build, no mark, and either
`IDLE` with both lines floating or a job in `SENDING`. -/
def GoodState (s : State) : Prop :=
  s.config.Legal ∧ s.mark = .clear ∧
    ((s.txState = .idle ∧ Floating s) ∨
      ∃ code n, JobAt code n s ∧ (s.pos = 0#8 → Floating s))

/-- Two states that differ at most in the hidden registers `CODE`, `CODE_EXT`, `MASK`, `REMAIN` and `POS`
(10_state.md R35, R42). -/
structure SameVisible (s t : State) : Prop where
  config   : s.config = t.config
  port     : s.port = t.port
  mark     : s.mark = t.mark
  txState  : s.txState = t.txState
  ld0      : s.ld0 = t.ld0
  ld1      : s.ld1 = t.ld1
  response : s.response = t.response
  lineOps  : s.lineOps = t.lineOps

/-- Two outcomes no observer can tell apart (10_state.md R32). -/
def SameOutcome (o p : Result) : Prop :=
  match o, p with
  | .next s, .next t       => SameVisible s t
  | .fault a, .fault b     => a = b
  | .refused a, .refused b => a = b
  | _, _                   => False

/-- `s` with a stop's mark and no outputs: no register, no line and no waiting request has changed (60_exceptions.md R173,
R174). -/
def stopped (s : State) (m : Mark) : State := { s with mark := m, response := .silent, lineOps := [] }

/-- How many of the words are `TICK` requests. -/
def tickCount (ws : List Request) : Nat := ws.countP fun w => decide (decode w = .ok .tick)

/-- One step of a marked run: a stop leaves its mark and writes no register (60_exceptions.md R173, R174). -/
def advance (s : State) : State := s.settle (step s)

/-- `k` steps of a marked run. -/
def advanceBy : Nat → State → State
  | 0, s     => s
  | k + 1, s => advanceBy k (advance s)

/-- A good final state bears no mark (R173). -/
def GoodFinal (s : State) : Prop := s.mark = .clear

end Sys2Proof.Safety
end

