-- ==== Sys2Proof/Certificates/Slice0/Obligations.lean ====
section
/-! DEFINITION. The statements about WIEGAND_CORE, from the numbered rules of spec/. In an equation
`exec i s = .next { s with ... }` every field that is not listed is unchanged: the equation is the request's frame too. -/

open Sys2Proof Sys2Proof.Machine Sys2Proof.Safety

/-! ## Request words -/

/-- Decoding an encoded request gives it back, at every operand value (30_encoding.md section 1). -/
def Obligations.DecodeOfEncode : Prop :=
  ∀ i : Instr, decode (encode i) = .ok i

/-- A decoded word is the encoding of its request once its unused fields are zero (30_encoding.md R71, R74). -/
def Obligations.EncodeOfDecode : Prop :=
  ∀ (w : Request) (i : Instr), decode w = .ok i →
    match i.opCode with
    | .encodeRaw | .code | .send => encode i = w
    | .addParity => w.toNat / 256 % 256 = 0 ↔ encode i = w
    | .tick => w.toNat / 256 = 0 ↔ encode i = w

/-- R78 and R75: the decoding algorithm on every 80-bit word, in arithmetic on the word. -/
def Obligations.DecodeByTheAlgorithm : Prop :=
  ∀ w : Request,
    let op := w.toNat % 8
    let rsv := w.toNat / 8 % 32
    let n8 := BitVec.ofNat 8 (w.toNat / 256)
    let v64 := BitVec.ofNat 64 (w.toNat / 65536)
    decode w =
      if op = 0 ∨ op = 6 ∨ op = 7 then .error (.reservedOp (BitVec.ofNat 3 op))
      else if rsv ≠ 0 then .error (.reservedBits (BitVec.ofNat 5 rsv))
      else if op = 1 then .ok (.encodeRaw n8 v64)
      else if op = 2 then .ok (.addParity v64)
      else if op = 3 then .ok (.code n8 v64)
      else if op = 4 then .ok (.send v64 n8)
      else .ok .tick

/-- R74: fields a request does not use do not change the result, the state or the line operations. -/
def Obligations.UnusedFieldsIgnored : Prop :=
  ∀ (s : State) (w v : Request) (rest : List Request), w.toNat % 256 = v.toNat % 256 →
    (w.toNat % 256 = 5 ∨ (w.toNat % 256 = 2 ∧ w.toNat / 65536 = v.toNat / 65536)) →
    step { s with port := w :: rest } = step { s with port := v :: rest }

/-- R82: the worked encodings, both ways. -/
def Obligations.WorkedEncodings : Prop :=
  ∀ p ∈ ([(.encodeRaw 0x7B#8 0x3039#64, 0x00000000000030397B01#80),
      (.addParity 0x7B3039#64, 0x00000000007B30390002#80),
      (.code 0x7B#8 0x3039#64, 0x00000000000030397B03#80),
      (.send 0x3#64 4#8, 0x00000000000000030404#80),
      (.send 0xF66073#64 26#8, 0x0000000000F660731A04#80),
      (.send 0x123456789A#64 40#8, 0x000000123456789A2804#80),
      (.send 0xAAAAAAAA55555555#64 64#8, 0xAAAAAAAA555555554004#80),
      (.tick, 0x00000000000000000005#80)] : List (Instr × Request)),
    encode p.1 = p.2 ∧ decode p.2 = .ok p.1

/-! ## The step -/

/-- A step performs the next request: an unmarked, legally built block whose next word decodes to `i` does exactly `exec i`,
with that word taken off the port (00_scope.md R5). -/
def Obligations.StepPerformsTheRequest : Prop :=
  ∀ (s : State) (w : Request) (rest : List Request) (i : Instr),
    s.mark = .clear → s.config.Legal → s.port = w :: rest → decode w = .ok i →
    step s = exec i { s with port := rest }

/-- A request is refused exactly when `op` is reserved or `rsv` is not zero, `op` checked first; no register changes, nothing is
put out, and the mark is kept for the rest of the run (30_encoding.md R76; 60_exceptions.md R174). That the marked run stops there,
the refused word still on the port, is deduced (log 5). -/
def Obligations.ReservedRequestsRefused : Prop :=
  ∀ (s : State) (w : Request) (rest : List Request),
    s.mark = .clear → s.config.Legal → s.port = w :: rest →
    let op := w.toNat % 8
    let rsv := w.toNat / 8 % 32
    if op = 0 ∨ op = 6 ∨ op = 7 then
      step s = .refused (.reservedOp (BitVec.ofNat 3 op)) ∧
        ∀ k, advanceBy (k + 1) s = stopped s (.refused (.reservedOp (BitVec.ofNat 3 op)))
    else if rsv ≠ 0 then
      step s = .refused (.reservedBits (BitVec.ofNat 5 rsv)) ∧
        ∀ k, advanceBy (k + 1) s = stopped s (.refused (.reservedBits (BitVec.ofNat 5 rsv)))
    else ∀ r, step s ≠ .refused r

/-- R77: a block built with `ENC_BITS` odd, below 10 or above 64 is refused as a whole, whatever waits on its port; no other
build is. -/
def Obligations.IllegalBuildsRefused : Prop :=
  ∀ s : State, s.mark = .clear →
    ((s.config.encBits % 2 = 1 ∨ s.config.encBits < 10 ∨ 64 < s.config.encBits) ↔
      step s = .refused (.illegalEncBits s.config.encBits))

/-- With no request waiting a step changes nothing. This is the model's choice (log 3), deduced from 60_exceptions.md R186. -/
def Obligations.StepWithoutRequest : Prop :=
  ∀ s : State, s.mark = .clear → s.config.Legal → s.port = [] → step s = .next s

/-- A step that answers a next state takes the next waiting request off the port, or none where none waits, and writes neither
`ENC_BITS` nor the mark (20_memory.md R57; 10_state.md R34; 60_exceptions.md R173, R174). That the waiting requests are one list
is the model's choice (log 2), that a step with none waiting goes on is deduced (log 3), and so is holding the mark in State
(log 5). -/
def Obligations.StepTakesOneRequest : Prop :=
  ∀ s t : State, step s = .next t → t.port = s.port.tail ∧ t.config = s.config ∧ t.mark = s.mark

/-- R173: a faulted step writes no register and issues no line operation; the mark stays whatever is asked later, and the state
is never a good final one. -/
def Obligations.FaultsAreFinal : Prop :=
  ∀ (s : State) (f : Fault) (ws : List Request) (k : Nat), step s = .fault f →
    advance s = stopped s (.faulted f) ∧
      advanceBy k { advance s with port := ws } = { advance s with port := ws } ∧
      ¬ GoodFinal (advanceBy k { advance s with port := ws })

/-! ## The Encoder -/

/-- R103: `ENCODE_RAW` answers `(facility << (B-10)) | id`, the shift not overflowing, and writes nothing else. -/
def Obligations.EncodeRawAnswers : Prop :=
  ∀ (s : State) (facility : Byte) (id : Wide), s.config.Legal →
    ∃ raw : Wide,
      exec (.encodeRaw facility id) s = .next { s with response := .result raw, lineOps := [] } ∧
      raw.toNat = (facility.toNat * 2 ^ (s.config.encBits - 10)) ||| id.toNat ∧
      facility.toNat * 2 ^ (s.config.encBits - 10) < 2 ^ 62

/-- R104 and R120: for an id that fits, the result is the disjoint union of the two fields, and zero above them. -/
def Obligations.EncodeRawPacksTheFields : Prop :=
  ∀ (s : State) (facility : Byte) (id : Wide), s.config.Legal →
    id.toNat < 2 ^ (s.config.encBits - 10) →
    ∃ raw : Wide,
      exec (.encodeRaw facility id) s = .next { s with response := .result raw, lineOps := [] } ∧
      raw.toNat = (facility.toNat * 2 ^ (s.config.encBits - 10)) ||| id.toNat ∧
      raw.toNat = facility.toNat * 2 ^ (s.config.encBits - 10) + id.toNat ∧
      raw.toNat / 2 ^ (s.config.encBits - 10) = facility.toNat ∧
      raw.toNat % 2 ^ (s.config.encBits - 10) = id.toNat ∧
      raw.toNat < 2 ^ (s.config.encBits - 2)

/-- R105: any id completes with the formula's bits, those of the id at or above `B-10` ORed in; (a) an id with a bit at or above
`B-2` gives a result of at least `2^(B-2)` (the reading of log 19); (b) with `B = 10` the result is `facility | id`
and every nonzero id is out of range; (c) zeros give zero; (d) with
`B = 26`, (1, 0) and (0, 0x10000) both give 0x10000. -/
def Obligations.EncodeRawCornerCases : Prop :=
  ∀ (s : State) (facility : Byte) (id : Wide), s.config.Legal →
    ∃ raw : Wide,
      exec (.encodeRaw facility id) s = .next { s with response := .result raw, lineOps := [] } ∧
      (∀ j, raw.getLsbD j =
        ((decide (s.config.encBits - 10 ≤ j) && facility.getLsbD (j - (s.config.encBits - 10))) || id.getLsbD j)) ∧
      (2 ^ (s.config.encBits - 2) ≤ id.toNat → 2 ^ (s.config.encBits - 2) ≤ raw.toNat) ∧
      (s.config.encBits = 10 → raw.toNat = facility.toNat ||| id.toNat ∧
        (id ≠ 0#64 → 2 ^ (s.config.encBits - 10) ≤ id.toNat)) ∧
      (facility = 0#8 → id = 0#64 → raw = 0#64) ∧
      (s.config.encBits = 26 →
        (facility = 1#8 ∧ id = 0#64) ∨ (facility = 0#8 ∧ id = 0x10000#64) → raw = 0x10000#64)

/-- R109: every bit of the result of `ADD_PARITY`. Bit 0 makes the low group odd; the other bits are the raw code shifted by one,
with the even parity bit ORed in at `B-1`. -/
def Obligations.AddParityAnswers : Prop :=
  ∀ (s : State) (raw : Wide), s.config.Legal →
    let B := s.config.encBits
    let H := B / 2 - 1
    ∃ wire : Wide,
      exec (.addParity raw) s = .next { s with response := .result wire, lineOps := [] } ∧
      ∀ j < 64, wire.getLsbD j =
        if j = 0 then decide (ones raw 0 H % 2 = 0)
        else (raw.getLsbD (j - 1) || (decide (j = B - 1) && decide (ones raw H H % 2 = 1)))

/-- R110 and R118: for a raw code below `2^(B-2)` the result is below `2^B`, its payload is the raw code, and the two groups with
their parity bits hold an odd and an even number of ones. -/
def Obligations.AddParityIsCorrect : Prop :=
  ∀ (s : State) (raw : Wide), s.config.Legal → raw.toNat < 2 ^ (s.config.encBits - 2) →
    let B := s.config.encBits
    let H := B / 2 - 1
    ∃ wire : Wide,
      exec (.addParity raw) s = .next { s with response := .result wire, lineOps := [] } ∧
      wire.toNat < 2 ^ B ∧
      wire.toNat / 2 % 2 ^ (B - 2) = raw.toNat ∧
      (∀ j < 2 * H, wire.getLsbD (j + 1) = raw.getLsbD j) ∧
      (wire.getLsbD 0 = true ↔ ones raw 0 H % 2 = 0) ∧
      (wire.getLsbD (B - 1) = true ↔ ones raw H H % 2 = 1) ∧
      (ones wire 1 H + (wire.getLsbD 0).toNat) % 2 = 1 ∧
      (ones wire (H + 1) H + (wire.getLsbD (B - 1)).toNat) % 2 = 0

/-- R119: the shift invariant in its corrected form (90_conflicts.md C4), for every raw code; the literal form fails at
`B = 26`, `0x10001`. -/
def Obligations.ShiftKeepsThePayload : Prop :=
  ∀ (s : State) (raw : Wide), s.config.Legal →
    ∃ wire : Wide,
      exec (.addParity raw) s = .next { s with response := .result wire, lineOps := [] } ∧
      wire.toNat / 2 % 2 ^ (s.config.encBits - 2) = raw.toNat % 2 ^ (s.config.encBits - 2) ∧
      (s.config.encBits = 26 → raw = 0x10001#64 → wire = 0x2020002#64 ∧ wire.toNat / 2 = 0x1010001)

/-- R111: (a) bit `B-2` of the raw code is ORed onto the even parity bit, the bits above it move up by one, bit 63 is lost, and
no bit at or above `B-2` enters a parity bit; (b) at `B = 64` that reads `wire[63] = even | raw[62]`; (c) a zero raw code gives
1; (d) a group of all ones has `H` ones. -/
def Obligations.AddParityCornerCases : Prop :=
  ∀ (s : State) (raw : Wide), s.config.Legal →
    let B := s.config.encBits
    let H := B / 2 - 1
    ∃ wire : Wide,
      exec (.addParity raw) s = .next { s with response := .result wire, lineOps := [] } ∧
      wire.getLsbD (B - 1) = (raw.getLsbD (B - 2) || decide (ones raw H H % 2 = 1)) ∧
      (∀ j, B - 1 ≤ j → j ≤ 62 → wire.getLsbD (j + 1) = raw.getLsbD j) ∧
      (∀ other : Wide, other.toNat % 2 ^ 63 = raw.toNat % 2 ^ 63 →
        exec (.addParity other) s = exec (.addParity raw) s) ∧
      (∀ other : Wide, other.toNat % 2 ^ (B - 2) = raw.toNat % 2 ^ (B - 2) →
        ones other 0 H = ones raw 0 H ∧ ones other H H = ones raw H H ∧
        ∃ w : Wide,
          exec (.addParity other) s = .next { s with response := .result w, lineOps := [] } ∧
          w.getLsbD 0 = wire.getLsbD 0) ∧
      (raw = 0#64 → wire = 1#64) ∧
      ((∀ j < H, raw.getLsbD j = true) → (wire.getLsbD 0 = true ↔ H % 2 = 0)) ∧
      ((∀ j < H, raw.getLsbD (H + j) = true) → raw.getLsbD (B - 2) = false →
        (wire.getLsbD (B - 1) = true ↔ H % 2 = 1))

/-- R114: `CODE` completes as `ADD_PARITY` does on the result of `ENCODE_RAW` for the same operands. -/
def Obligations.CodeComposesThePacking : Prop :=
  ∀ (s : State) (facility : Byte) (id : Wide), s.config.Legal →
    ∃ raw wire : Wide,
      raw.toNat = (facility.toNat * 2 ^ (s.config.encBits - 10)) ||| id.toNat ∧
      exec (.encodeRaw facility id) s = .next { s with response := .result raw, lineOps := [] } ∧
      exec (.addParity raw) s = .next { s with response := .result wire, lineOps := [] } ∧
      exec (.code facility id) s = .next { s with response := .result wire, lineOps := [] }

/-- R115: the on-the-wire layout of a `CODE` result for an id that fits. -/
def Obligations.CodeLayout : Prop :=
  ∀ (s : State) (facility : Byte) (id : Wide), s.config.Legal →
    id.toNat < 2 ^ (s.config.encBits - 10) →
    let B := s.config.encBits
    let H := B / 2 - 1
    ∃ wire : Wide,
      exec (.code facility id) s = .next { s with response := .result wire, lineOps := [] } ∧
      wire.toNat < 2 ^ B ∧
      wire.toNat / 2 ^ (B - 9) % 256 = facility.toNat ∧
      wire.toNat / 2 % 2 ^ (B - 10) = id.toNat ∧
      (ones wire (H + 1) H + (wire.getLsbD (B - 1)).toNat) % 2 = 0 ∧
      (ones wire 1 H + (wire.getLsbD 0).toNat) % 2 = 1

/-- R100: an Encoder request completes in every `STATE`; it reads no state but `ENC_BITS`, writes none and issues no line
operation. -/
def Obligations.EncoderIsStateless : Prop :=
  ∀ (i : Instr) (B : Nat), i.opCode = .encodeRaw ∨ i.opCode = .addParity ∨ i.opCode = .code →
    ∃ value : Wide, ∀ s : State, s.config.encBits = B →
      exec i s = .next { s with response := .result value, lineOps := [] }

/-! ## `SEND` -/

/-- R133 to R136: the busy rejection before every other check, then CV1, then the latched job, which completes with
`accepted = 1`. -/
def Obligations.SendMeaning : Prop :=
  ∀ (s : State) (code : Wide) (bitCount : Byte),
    (s.txState ≠ .idle →
      exec (.send code bitCount) s = .next { s with response := .accepted false, lineOps := [] }) ∧
    (s.txState = .idle → bitCount.toNat = 0 ∨ 64 < bitCount.toNat →
      exec (.send code bitCount) s = .fault (.badBitCount bitCount)) ∧
    (s.txState = .idle → 1 ≤ bitCount.toNat → bitCount.toNat ≤ 64 →
      exec (.send code bitCount) s = .next
        { s with
          code := BitVec.ofNat 32 (if 32 < bitCount.toNat then code.toNat / 2 ^ 32 else code.toNat)
          codeExt := if 32 < bitCount.toNat then BitVec.ofNat 32 code.toNat else s.codeExt
          mask := BitVec.ofNat 32
            (if 32 < bitCount.toNat then 2 ^ (bitCount.toNat - 33) else 2 ^ (bitCount.toNat - 1))
          pos := 0#8
          remain := bitCount
          txState := .sending
          response := .accepted true
          lineOps := [] })

/-- An accepted `SEND` puts the job at its start, from any `IDLE` state (41_transmitter.md section 2). -/
def Obligations.SendStartsTheJob : Prop :=
  ∀ (s : State) (code : Wide) (bitCount : Byte),
    s.txState = .idle → 1 ≤ bitCount.toNat → bitCount.toNat ≤ 64 →
    ∃ t, exec (.send code bitCount) s = .next t ∧ JobAt code bitCount.toNat t ∧ t.pos = 0#8 ∧
      t.response = .accepted true ∧ t.ld0 = s.ld0 ∧ t.ld1 = s.ld1 ∧ t.lineOps = []

/-! ## `TICK` -/

/-- R141: outside a job `TICK` writes no register and issues no line operation. -/
def Obligations.TickOutsideAJob : Prop :=
  ∀ s : State, s.txState ≠ .sending →
    exec .tick s = .next { s with response := .silent, lineOps := [] }

/-- The first tick of a job switches both lines to output and drives the line of the current bit low; then the mask falls, with
the carry-over if it became 0, and `POS` is 1 (41_transmitter.md section 3, R143 to R146, R150). -/
def Obligations.FirstTickOfAJob : Prop :=
  ∀ s : State, s.txState = .sending → s.pos = 0#8 →
    let bit := decide (s.code.toNat &&& s.mask.toNat ≠ 0)
    let done := decide (s.mask.toNat / 2 = 0)
    exec .tick s = .next
      { s with
        ld0 := if bit then .outHigh else .outLow
        ld1 := if bit then .outLow else .outHigh
        mask := if done then 0x80000000#32 else BitVec.ofNat 32 (s.mask.toNat / 2)
        code := if done then s.codeExt else s.code
        pos := 1#8
        response := .silent
        lineOps := [⟨.d0, .asOutput⟩, ⟨.d1, .asOutput⟩, ⟨if bit then .d1 else .d0, .driveLow⟩] }

/-- A later phase-0 tick drives only the line of the current bit, which must be in output mode (41_transmitter.md section 3,
R144 to R146, R150; 10_state.md R30). -/
def Obligations.PulseTick : Prop :=
  ∀ s : State, s.txState = .sending → s.pos.toNat % 4 = 0 → s.pos ≠ 0#8 →
    let bit := decide (s.code.toNat &&& s.mask.toNat ≠ 0)
    let done := decide (s.mask.toNat / 2 = 0)
    (if bit then s.ld1 ≠ .float else s.ld0 ≠ .float) →
    exec .tick s = .next
      { s with
        ld0 := if bit then s.ld0 else .outLow
        ld1 := if bit then .outLow else s.ld1
        mask := if done then 0x80000000#32 else BitVec.ofNat 32 (s.mask.toNat / 2)
        code := if done then s.codeExt else s.code
        pos := BitVec.ofNat 8 (s.pos.toNat + 1)
        response := .silent
        lineOps := [⟨if bit then .d1 else .d0, .driveLow⟩] }

/-- A phase-1 tick that leaves bits to send releases both lines and counts the bit (41_transmitter.md section 3, R146, R147,
R150). -/
def Obligations.ReleaseTick : Prop :=
  ∀ s : State, s.txState = .sending → s.pos.toNat % 4 = 1 → s.ld0 ≠ .float → s.ld1 ≠ .float →
    2 ≤ s.remain.toNat →
    exec .tick s = .next
      { s with
        ld0 := .outHigh
        ld1 := .outHigh
        remain := BitVec.ofNat 8 (s.remain.toNat - 1)
        mask := if s.mask = 0#32 then 0x80000000#32 else s.mask
        code := if s.mask = 0#32 then s.codeExt else s.code
        pos := BitVec.ofNat 8 (s.pos.toNat + 1)
        response := .silent
        lineOps := [⟨.d0, .releaseHigh⟩, ⟨.d1, .releaseHigh⟩] }

/-- R149: the terminal tick releases both lines, switches them to input and goes to `IDLE`; it does not touch the mask, the code
word or the position. -/
def Obligations.TerminalTick : Prop :=
  ∀ s : State, s.txState = .sending → s.pos.toNat % 4 = 1 → s.ld0 ≠ .float → s.ld1 ≠ .float →
    s.remain = 1#8 →
    exec .tick s = .next
      { s with
        ld0 := .float
        ld1 := .float
        remain := 0#8
        txState := .idle
        response := .silent
        lineOps := [⟨.d0, .releaseHigh⟩, ⟨.d1, .releaseHigh⟩, ⟨.d0, .asInput⟩, ⟨.d1, .asInput⟩] }

/-- Phases 2 and 3 touch no line; the carry-over test and the increment still run (41_transmitter.md section 3, R146, R148, R150).
In a state no run reaches, `POS` 255, the increment wraps to 0: deduced (log 20), where 92_eei_decisions.md D24 defines no wrap. -/
def Obligations.GapTick : Prop :=
  ∀ s : State, s.txState = .sending → 2 ≤ s.pos.toNat % 4 →
    exec .tick s = .next
      { s with
        mask := if s.mask = 0#32 then 0x80000000#32 else s.mask
        code := if s.mask = 0#32 then s.codeExt else s.code
        pos := BitVec.ofNat 8 (s.pos.toNat + 1)
        response := .silent
        lineOps := [] }

/-- In every state a run can be in, `TICK` completes with no fault and no response (R151: "No `TICK` in any state raises a fault
or is refused"; states no run reaches are log 6). -/
def Obligations.TickCompletes : Prop :=
  ∀ s : State, GoodState s → ∃ t, exec .tick s = .next t ∧ t.response = .silent

/-- R26 and R27 on a tick: in a state a run can be in, `REMAIN` never falls below 0 and `POS` never wraps, the largest value
being 253 (10_state.md section 2). -/
def Obligations.TickNeverWrapsACounter : Prop :=
  ∀ s t : State, GoodState s → exec .tick s = .next t →
    (t.remain.toNat = s.remain.toNat ∨ t.remain.toNat + 1 = s.remain.toNat) ∧
    (t.pos.toNat = s.pos.toNat ∨ (t.pos.toNat = s.pos.toNat + 1 ∧ t.pos.toNat ≤ 253))

/-! ## Lines and outputs -/

/-- What a line operation does: the driver it leaves, its place in the step's list, and the fault on a floating line
(10_state.md section 3, R30). -/
def Obligations.LineOperations : Prop :=
  ∀ (l : Line) (s : State),
    (∃ t, lineOp l .asInput s = .next t ∧ t.driver l = .float) ∧
    (∃ t, lineOp l .asOutput s = .next t ∧ t.driver l = .outHigh) ∧
    (s.driver l = .float →
      lineOp l .driveLow s = .fault (.lineMisuse l .driveLow) ∧
      lineOp l .releaseHigh s = .fault (.lineMisuse l .releaseHigh)) ∧
    (s.driver l ≠ .float →
      (∃ t, lineOp l .driveLow s = .next t ∧ t.driver l = .outLow) ∧
      (∃ t, lineOp l .releaseHigh s = .next t ∧ t.driver l = .outHigh)) ∧
    (∀ op t, lineOp l op s = .next t →
      t.lineOps = s.lineOps ++ [⟨l, op⟩] ∧ (∀ m, m ≠ l → t.driver m = s.driver m) ∧
      t = { s with ld0 := t.ld0, ld1 := t.ld1, lineOps := t.lineOps })

/-- The bus level of a line is `LOW` exactly when its driver is `OUT_LOW`, and `STATUS` shows `STATE` in the code of R21
(10_state.md sections 2 and 3, R21, R31, R32). -/
def Obligations.BusLevelsAndStatus : Prop :=
  ∀ s : State,
    (∀ l, busLevel s l = if s.driver l = .outLow then .low else .high) ∧
    (s.txState = .idle ↔ statusOut s = 0b00#2) ∧ (s.txState = .sending ↔ statusOut s = 0b01#2) ∧
    (s.txState = .receiving ↔ statusOut s = 0b10#2) ∧ (s.txState = .unused ↔ statusOut s = 0b11#2)

/-! ## Whole-machine rules -/

/-- Exactly when a request faults, and with which fault; no request is refused once it is decoded; and no run from reset meets CV2
(60_exceptions.md section 1, R172; 10_state.md R30; 41_transmitter.md R157). That a `TICK` on a floating line faults is deduced
(log 6): R30 and R172 say so, against R151's "No `TICK` in any state raises a fault". -/
def Obligations.FaultCauses : Prop :=
  (∀ (i : Instr) (s : State),
    (∀ f, exec i s = .fault f ↔
      (∃ code bitCount, i = .send code bitCount ∧ s.txState = .idle ∧
        (bitCount.toNat = 0 ∨ 64 < bitCount.toNat) ∧ f = .badBitCount bitCount) ∨
      (i = .tick ∧ s.txState = .sending ∧ s.pos ≠ 0#8 ∧
        ((s.pos.toNat % 4 = 0 ∧ ∃ l, l = (if s.code &&& s.mask = 0#32 then .d0 else .d1) ∧
            s.driver l = .float ∧ f = .lineMisuse l .driveLow) ∨
          (s.pos.toNat % 4 = 1 ∧ s.ld0 = .float ∧ f = .lineMisuse .d0 .releaseHigh) ∨
          (s.pos.toNat % 4 = 1 ∧ s.ld0 ≠ .float ∧ s.ld1 = .float ∧
            f = .lineMisuse .d1 .releaseHigh)))) ∧
    ∀ r, exec i s ≠ .refused r) ∧
  ∀ (c : Config) (ws : List Request) (k : Nat) (l : Line) (op : LineOp),
    Host.Core.run core k { State.reset with config := c, port := ws } ≠ .fault (.lineMisuse l op)

/-- The "written by" column of R29: which request may change which register (10_state.md section 2). -/
def Obligations.RegisterWriters : Prop :=
  ∀ (i : Instr) (s t : State), exec i s = .next t →
    (t.txState ≠ s.txState →
      (i.opCode = .send ∧ s.txState = .idle ∧ t.txState = .sending) ∨
      (i = .tick ∧ s.txState = .sending ∧ t.txState = .idle ∧ s.remain = 1#8)) ∧
    (t.code ≠ s.code → (i.opCode = .send ∧ s.txState = .idle) ∨
      (i = .tick ∧ s.txState = .sending ∧ t.code = s.codeExt)) ∧
    (t.codeExt ≠ s.codeExt →
      ∃ code bitCount, i = .send code bitCount ∧ s.txState = .idle ∧ 32 < bitCount.toNat) ∧
    (t.mask ≠ s.mask → (i.opCode = .send ∧ s.txState = .idle) ∨ (i = .tick ∧ s.txState = .sending)) ∧
    (t.remain ≠ s.remain → (i.opCode = .send ∧ s.txState = .idle) ∨
      (i = .tick ∧ s.txState = .sending ∧ s.pos.toNat % 4 = 1)) ∧
    (t.pos ≠ s.pos → (i.opCode = .send ∧ s.txState = .idle) ∨
      (i = .tick ∧ s.txState = .sending ∧ t.txState = .sending)) ∧
    (t.ld0 ≠ s.ld0 ∨ t.ld1 ≠ s.ld1 → i = .tick ∧ s.txState = .sending)

/-- R22: `RECEIVING` and the unused value are never entered, by any request or any run from reset; in either value `SEND` answers
`accepted = 0` and `TICK` does nothing. -/
def Obligations.ReceivingNeverEntered : Prop :=
  (∀ (i : Instr) (s t : State), exec i s = .next t →
    t.txState = .receiving ∨ t.txState = .unused → t.txState = s.txState) ∧
  (∀ (c : Config) (ws : List Request) (k : Nat) (t : State),
    Host.Core.run core k { State.reset with config := c, port := ws } = .next t →
    t.txState = .idle ∨ t.txState = .sending) ∧
  (∀ (s : State) (code : Wide) (bitCount : Byte), s.txState = .receiving ∨ s.txState = .unused →
    exec (.send code bitCount) s = .next { s with response := .accepted false, lineOps := [] } ∧
    exec .tick s = .next { s with response := .silent, lineOps := [] })

/-- The block right after construction (10_state.md section 6, R42). The empty outputs, port and mark are the model's choice
(logs 4, 5, 7). -/
def Obligations.ResetValues : Prop :=
  State.reset.txState = .idle ∧ State.reset.code = 0#32 ∧ State.reset.codeExt = 0#32 ∧
  State.reset.mask = 0#32 ∧ State.reset.remain = 0#8 ∧ State.reset.pos = 0#8 ∧
  Floating State.reset ∧ State.reset.config.encBits = 26 ∧ statusOut State.reset = 0b00#2 ∧
  State.reset.response = .silent ∧ State.reset.lineOps = [] ∧ State.reset.port = [] ∧
  State.reset.mark = .clear

/-- The reset state is a good state, for every legal build and whatever requests are offered. -/
def Obligations.ResetIsGood : Prop :=
  ∀ (c : Config) (ws : List Request), c.Legal →
    GoodState { State.reset with config := c, port := ws }

/-- Every step keeps a good state good (10_state.md section 5). -/
def Obligations.StepKeepsGoodStates : Prop :=
  ∀ s t : State, GoodState s → step s = .next t → GoodState t

/-- Every step keeps the job it finds at its exact place, or ends it in the state R39 gives (10_state.md section 5). -/
def Obligations.StepKeepsTheJob : Prop :=
  ∀ (code : Wide) (n : Nat) (s t : State), JobAt code n s → step s = .next t →
    (JobAt code n t ∧ (t.pos = s.pos ∨ t.pos.toNat = s.pos.toNat + 1)) ∨
      (JobDone n t ∧ s.pos.toNat = 4 * (n - 1) + 1 ∧ t.codeExt = s.codeExt)

/-- R40 and R41, for every run from reset: never are both lines driven low, in `IDLE` both float, and the only fault is CV1. -/
def Obligations.LinesAreSafe : Prop :=
  ∀ (c : Config) (ws : List Request) (k : Nat),
    match Host.Core.run core k { State.reset with config := c, port := ws } with
    | .next t    => ¬ BothLow t ∧ (t.txState = .idle → Floating t)
    | .fault f   => ∃ bitCount, f = .badBitCount bitCount
    | .refused _ => True

/-- R38: as long as the job of an accepted `SEND` lasts, whatever requests come between its ticks, its five items hold. -/
def Obligations.JobInvariantHolds : Prop :=
  ∀ (code : Wide) (bitCount : Byte) (s t : State) (k : Nat),
    s.txState = .idle → 1 ≤ bitCount.toNat → bitCount.toNat ≤ 64 →
    exec (.send code bitCount) s = .next t →
    (∀ j ≤ k, ∃ u, Host.Core.run core j t = .next u ∧ u.txState = .sending) →
    ∃ u, Host.Core.run core k t = .next u ∧ JobInvariant code bitCount.toNat u

/-- R155 and R39: a job of `n` bits ends at its tick number `4*(n-1)+2` and not before, in the state R39 gives. -/
def Obligations.JobLengthAndEnd : Prop :=
  ∀ (code : Wide) (bitCount : Byte) (s : State),
    s.txState = .idle → 1 ≤ bitCount.toNat → bitCount.toNat ≤ 64 →
    ∃ t, exec (.send code bitCount) s = .next t ∧
      (∀ k < 4 * (bitCount.toNat - 1) + 2, ∃ u, ticks k t = .next u ∧ u.txState = .sending) ∧
      ∃ u, ticks (4 * (bitCount.toNat - 1) + 2) t = .next u ∧ JobDone bitCount.toNat u ∧
        u.codeExt = if 32 < bitCount.toNat then BitVec.ofNat 32 code.toNat else s.codeExt

/-- R161 and R155, whatever requests come between the ticks of a job: as long as every word is a request, the block goes on
without a fault, the job's position is the number of ticks given, and the job ends at tick number `4*(n-1)+2`, no earlier. -/
def Obligations.JobsRunToCompletion : Prop :=
  ∀ (code : Wide) (bitCount : Byte) (s t : State) (ws : List Request) (k : Nat),
    s.mark = .clear → s.config.Legal → s.txState = .idle → 1 ≤ bitCount.toNat → bitCount.toNat ≤ 64 →
    exec (.send code bitCount) s = .next t →
    (∀ w ∈ ws.take k, ∃ i, decode w = .ok i) →
    tickCount (ws.take (k - 1)) < jobTicks bitCount.toNat →
    ∃ u, Host.Core.run core k { t with port := ws } = .next u ∧
      if tickCount (ws.take k) < jobTicks bitCount.toNat then
        u.txState = .sending ∧ u.pos.toNat = tickCount (ws.take k)
      else JobDone bitCount.toNat u

/-- R156: the line operations of every tick of a job, and the bus levels it leaves. -/
def Obligations.LineOperationsOfAJob : Prop :=
  ∀ (code : Wide) (bitCount : Byte) (s : State) (p : Nat),
    s.txState = .idle → 1 ≤ bitCount.toNat → bitCount.toNat ≤ 64 →
    p < jobTicks bitCount.toNat →
    ∃ t u, exec (.send code bitCount) s = .next t ∧ ticks (p + 1) t = .next u ∧
      u.lineOps = tickTable code bitCount.toNat p ∧
      ∀ l, busLevel u l =
        if p % 4 = 0 ∧ l = pulseLine code bitCount.toNat (p / 4) then .low else .high

/-- R154: a job emits exactly `n` pulses, most significant bit first, D1 for a 1 and D0 for a 0. -/
def Obligations.PulsesInBitOrder : Prop :=
  ∀ (code : Wide) (bitCount : Byte) (s : State),
    s.txState = .idle → 1 ≤ bitCount.toNat → bitCount.toNat ≤ 64 →
    ∃ t, exec (.send code bitCount) s = .next t ∧
      pulses (ticksOps (jobTicks bitCount.toNat) t) =
        (List.range bitCount.toNat).map (pulseLine code bitCount.toNat)

/-- R158: for a job wider than 32 bits the carry-over loads the extension word in the phase-0 tick of bit `n-33`, and not
before, so the first extension bit, `code[31]`, is the pulse of the tick at `POS = 4(n-32)` (41_transmitter.md section 4). -/
def Obligations.CarryOverTiming : Prop :=
  ∀ (code : Wide) (bitCount : Byte) (s : State),
    s.txState = .idle → 32 < bitCount.toNat → bitCount.toNat ≤ 64 →
    ∃ t, exec (.send code bitCount) s = .next t ∧
      (∀ k ≤ 4 * (bitCount.toNat - 33), ∃ u, ticks k t = .next u ∧
        u.code = BitVec.ofNat 32 (code.toNat / 2 ^ 32) ∧ u.mask ≠ 0#32) ∧
      (∀ k, 4 * (bitCount.toNat - 33) < k → k ≤ 4 * (bitCount.toNat - 32) → ∃ u, ticks k t = .next u ∧
        u.code = BitVec.ofNat 32 code.toNat ∧ u.mask = 0x80000000#32) ∧
      ∃ u, ticks (4 * (bitCount.toNat - 32) + 1) t = .next u ∧
        ⟨if code.getLsbD 31 then .d1 else .d0, .driveLow⟩ ∈ u.lineOps

/-- R160: before the terminal tick of a job every `SEND` is rejected, and the next tick does exactly what it would have done; after
it a `SEND` is accepted. -/
def Obligations.RejectedSendLeavesTheJob : Prop :=
  ∀ (code code' : Wide) (bitCount bitCount' : Byte) (s t : State),
    s.txState = .idle → 1 ≤ bitCount.toNat → bitCount.toNat ≤ 64 →
    exec (.send code bitCount) s = .next t →
    (∀ k < jobTicks bitCount.toNat, ∃ u v, ticks k t = .next u ∧
      exec (.send code' bitCount') u = .next v ∧ v.response = .accepted false ∧
      exec .tick v = exec .tick u) ∧
    (1 ≤ bitCount'.toNat → bitCount'.toNat ≤ 64 →
      ∃ u v, ticks (jobTicks bitCount.toNat) t = .next u ∧
        exec (.send code' bitCount') u = .next v ∧ v.response = .accepted true)

/-- The hidden registers of R35 change no response, line operation, bus level or outcome: two `IDLE` states that differ at most in
them run alike, whatever requests are offered (10_state.md sections 4 and 6, R35, R42). -/
def Obligations.HiddenRegistersUnobservable : Prop :=
  ∀ (s t : State) (k : Nat), SameVisible s t → s.txState = .idle →
    SameOutcome (Host.Core.run core k s) (Host.Core.run core k t)

/-- The frame a reader receives: a `CODE` result sent with `bitCount = ENC_BITS` goes out as even parity, facility, id and odd
parity, each most significant bit first, with an even number of ones in the first half and an odd number in the second
(40_encoder.md section 4, 41_transmitter.md section 4; R115, R154). -/
def Obligations.WiegandFrameOnTheWire : Prop :=
  ∀ (s : State) (facility : Byte) (id : Wide), s.config.Legal → s.txState = .idle →
    id.toNat < 2 ^ (s.config.encBits - 10) →
    let B := s.config.encBits
    let lineOf := fun b : Bool => if b then Line.d1 else Line.d0
    ∃ (wire : Wide) (t : State) (even odd : Bool),
      exec (.code facility id) s = .next { s with response := .result wire, lineOps := [] } ∧
      exec (.send wire (BitVec.ofNat 8 B)) s = .next t ∧
      pulses (ticksOps (jobTicks B) t) =
        [lineOf even] ++ (List.range 8).map (fun j => lineOf (facility.getLsbD (7 - j))) ++
          (List.range (B - 10)).map (fun j => lineOf (id.getLsbD (B - 11 - j))) ++ [lineOf odd] ∧
      ((pulses (ticksOps (jobTicks B) t)).take (B / 2)).count .d1 % 2 = 0 ∧
      ((pulses (ticksOps (jobTicks B) t)).drop (B / 2)).count .d1 % 2 = 1

/-- R199: a `CODE` result sent with a larger `bitCount` than `ENC_BITS` goes out with leading 0 bits; with a smaller one its top
bits, the even parity bit first, are not sent. Neither is a fault. -/
def Obligations.FramesOfOtherWidths : Prop :=
  ∀ (s : State) (facility : Byte) (id : Wide) (n : Nat), s.config.Legal → s.txState = .idle →
    id.toNat < 2 ^ (s.config.encBits - 10) → 1 ≤ n → n ≤ 64 →
    let B := s.config.encBits
    ∃ (wire : Wide) (t u : State),
      exec (.code facility id) s = .next { s with response := .result wire, lineOps := [] } ∧
      exec (.send wire (BitVec.ofNat 8 B)) s = .next t ∧
      exec (.send wire (BitVec.ofNat 8 n)) s = .next u ∧
      pulses (ticksOps (jobTicks n) u) =
        if B ≤ n then List.replicate (n - B) .d0 ++ pulses (ticksOps (jobTicks B) t)
        else (pulses (ticksOps (jobTicks B) t)).drop (B - n)

/-- Which of a `SEND` and a `TICK` goes first changes the answer to the `SEND` only when the `TICK` is terminal (60_exceptions.md
section 1, R177). R177 says "the result"; reading it as the answer to the `SEND`, and not as the state left behind, is deduced
(log 21): in `IDLE` the two orders leave different states. -/
def Obligations.SendAndTickOrder : Prop :=
  ∀ (s : State) (code : Wide) (bitCount : Byte), GoodState s → 1 ≤ bitCount.toNat → bitCount.toNat ≤ 64 →
    ∃ a u b, exec (.send code bitCount) s = .next a ∧ exec .tick s = .next u ∧
      exec (.send code bitCount) u = .next b ∧
      (a.response ≠ b.response ↔
        s.txState = .sending ∧ s.pos.toNat % 4 = 1 ∧ s.remain = 1#8) ∧
      (a.response ≠ b.response → a.response = .accepted false ∧ b.response = .accepted true)

/-- R196: with no tick the block stays in `SENDING`, its job and its lines as they are, and every `SEND` is rejected
(70_reset_and_hazards.md section 3). -/
def Obligations.StoppedTicksLeaveTheJob : Prop :=
  ∀ (s t : State) (k : Nat) (code : Wide) (bitCount : Byte), s.txState = .sending →
    (∀ w ∈ s.port, decode w ≠ .ok .tick) → Host.Core.run core k s = .next t →
    t = { s with port := s.port.drop k, response := t.response, lineOps := t.lineOps } ∧
      exec (.send code bitCount) t = .next { t with response := .accepted false, lineOps := [] }
end

