-- ==== Sys2Proof/Laws/Decode.lean ====
section
/-! SUPPORT. The fields of a request word, read and written (30_encoding.md R71 to R73). -/

namespace Sys2Proof

/-- `op` in arithmetic on the word (R71). -/
theorem opField_toNat (w : Request) : (opField w).toNat = w.toNat % 8 := by
  simp [opField, BitVec.extractLsb'_toNat]

/-- `rsv` in arithmetic on the word (R71). -/
theorem rsvField_toNat (w : Request) : (rsvField w).toNat = w.toNat / 8 % 32 := by
  simp [rsvField, BitVec.extractLsb'_toNat, Nat.shiftRight_eq_div_pow]

/-- `n8` in arithmetic on the word (R71). -/
theorem n8Field_eq (w : Request) : n8Field w = BitVec.ofNat 8 (w.toNat / 256) := by
  apply BitVec.eq_of_toNat_eq
  simp [n8Field, BitVec.extractLsb'_toNat, Nat.shiftRight_eq_div_pow]

/-- `v64` in arithmetic on the word (R71). -/
theorem v64Field_eq (w : Request) : v64Field w = BitVec.ofNat 64 (w.toNat / 65536) := by
  apply BitVec.eq_of_toNat_eq
  simp [v64Field, BitVec.extractLsb'_toNat, Nat.shiftRight_eq_div_pow]

/-- The encoder puts the operation code where the decoder looks for it. -/
theorem opField_encode (i : Instr) : opField (encode i) = opBits i.opCode := by
  unfold opField encode
  apply BitVec.eq_of_getLsbD_eq
  intro j hj
  simp only [BitVec.getLsbD_extractLsb', BitVec.getLsbD_cast, BitVec.getLsbD_append]
  simp [hj]

/-- The encoder leaves `rsv` zero (R75). -/
theorem rsvField_encode (i : Instr) : rsvField (encode i) = 0#5 := by
  unfold rsvField encode
  apply BitVec.eq_of_getLsbD_eq
  intro j hj
  simp only [BitVec.getLsbD_extractLsb', BitVec.getLsbD_cast, BitVec.getLsbD_append]
  simp [hj, show ¬ 3 + j < 3 by omega]

/-- The encoder puts `n8` where the decoder looks for it. -/
theorem n8Field_encode (i : Instr) : n8Field (encode i) = n8Of i := by
  unfold n8Field encode
  apply BitVec.eq_of_getLsbD_eq
  intro j hj
  simp only [BitVec.getLsbD_extractLsb', BitVec.getLsbD_cast, BitVec.getLsbD_append]
  simp [hj, show ¬ 8 + j < 3 by omega, show ¬ 8 + j - 3 < 5 by omega, show 8 + j - 3 - 5 = j by omega]

/-- The encoder puts `v64` where the decoder looks for it. -/
theorem v64Field_encode (i : Instr) : v64Field (encode i) = v64Of i := by
  unfold v64Field encode
  apply BitVec.eq_of_getLsbD_eq
  intro j hj
  simp only [BitVec.getLsbD_extractLsb', BitVec.getLsbD_cast, BitVec.getLsbD_append]
  simp [hj, show ¬ 16 + j < 3 by omega, show ¬ 16 + j - 3 < 5 by omega, show ¬ 16 + j - 3 - 5 < 8 by omega, show 16 + j - 3 - 5 - 8 = j by omega]

/-- The two directions of R72's table agree. -/
theorem opCodeOf_opBits (k : OpCode) : opCodeOf (opBits k) = some k := by cases k <;> decide

/-- The operands of a request are the fields it carries (R73). -/
theorem operandsOf_fields (i : Instr) : operandsOf i.opCode (n8Of i) (v64Of i) = i := by cases i <;> rfl

/-- R72's table by the value of `op`. -/
theorem opCodeOf_eq (op : BitVec 3) : opCodeOf op =
   if op.toNat = 0 ∨ op.toNat = 6 ∨ op.toNat = 7 then none
   else if op.toNat = 1 then some .encodeRaw else if op.toNat = 2 then some .addParity
   else if op.toNat = 3 then some .code else if op.toNat = 4 then some .send else some .tick := by
  revert op; decide

end Sys2Proof
end

