-- ==== Sys2Proof/Laws/Flags.lean ====
section
/-! SUPPORT. Parity as a count of ones (00_scope.md R18), and the code of `STATE` (10_state.md R21). -/

namespace Sys2Proof.Machine

open Sys2Proof.Safety

@[simp] theorem ones_zero (v : Wide) (lo : Nat) : ones v lo 0 = 0 := rfl

theorem ones_succ (v : Wide) (lo n : Nat) : ones v lo (n + 1) = ones v lo n + (v.getLsbD (lo + n)).toNat := by
  simp only [ones, List.range_succ, List.countP_append, List.countP_singleton]
  cases v.getLsbD (lo + n) <;> rfl

/-- A count of ones depends only on the bits counted. -/
theorem ones_congr {v w : Wide} {lo lo' n : Nat} (h : ∀ i < n, v.getLsbD (lo + i) = w.getLsbD (lo' + i)) :
    ones v lo n = ones w lo' n := by
  induction n with
  | zero => rfl
  | succ n ih => rw [ones_succ, ones_succ, ih fun i hi => h i (by omega), h n (by omega)]

/-- A count of ones by its lowest bit. -/
theorem ones_head (v : Wide) (lo n : Nat) : ones v lo (n + 1) = (v.getLsbD lo).toNat + ones v (lo + 1) n := by
  induction n with
  | zero => rw [ones_succ]; simp
  | succ n ih => rw [ones_succ, ih, ones_succ, show lo + 1 + n = lo + (n + 1) by omega]; omega

/-- A count of ones from the top down, the order in which bits go out (41_transmitter.md R154). -/
theorem ones_rev (v : Wide) (lo n : Nat) : (List.range n).countP (fun j => v.getLsbD (lo + n - 1 - j)) = ones v lo n := by
  induction n with
  | zero => rfl
  | succ n ih =>
    rw [ones_succ, ← ih, List.range_succ_eq_map, List.countP_cons, List.countP_map]
    have h1 : ∀ j ∈ List.range n, ((fun j => v.getLsbD (lo + (n + 1) - 1 - j)) ∘ Nat.succ) j = true ↔ (fun j => v.getLsbD (lo + n - 1 - j)) j = true := by
      intro j hj
      simp only [Function.comp, Nat.succ_eq_add_one]
      rw [show lo + (n + 1) - 1 - (j + 1) = lo + n - 1 - j by omega]
    rw [List.countP_congr h1]
    simp only [Nat.sub_zero, show lo + (n+1) - 1 = lo + n by omega]
    cases v.getLsbD (lo + n) <;> rfl

/-- A range of ones counts its length (40_encoder.md R111 d). -/
theorem ones_all {v : Wide} {lo n : Nat} (h : ∀ j < n, v.getLsbD (lo + j) = true) : ones v lo n = n := by
  induction n with
  | zero => rfl
  | succ n ih => rw [ones_succ, ih fun j hj => h j (by omega), h n (by omega)]; rfl

/-- The XOR of a range of bits is 1 exactly when an odd number of them are. -/
theorem xorRange_eq (v : Wide) (lo n : Nat) : xorRange v lo n = decide (ones v lo n % 2 = 1) := by
  induction n with
  | zero => rfl
  | succ n ih =>
    rw [xorRange, ih, ones_succ]
    cases v.getLsbD (lo + n)
    · simp
    · have h := Nat.mod_two_eq_zero_or_one (ones v lo n)
      rcases h with h | h <;> simp [h, Nat.add_mod]

/-- The odd parity bit is set exactly when the low group holds an even number of ones. -/
theorem oddParity_eq (encBits : Nat) (raw : Wide) :
    oddParity encBits raw = decide (ones raw 0 (encBits / 2 - 1) % 2 = 0) := by
  rw [oddParity, xorRange_eq, groupSize]
  rcases Nat.mod_two_eq_zero_or_one (ones raw 0 (encBits / 2 - 1)) with h | h <;> simp [h]

/-- The even parity bit is set exactly when the high group holds an odd number of ones. -/
theorem evenParity_eq (encBits : Nat) (raw : Wide) :
    evenParity encBits raw = decide (ones raw (encBits / 2 - 1) (encBits / 2 - 1) % 2 = 1) := by
  simp [evenParity, xorRange_eq, groupSize]

theorem stateBits_injective {a b : TxState} (h : stateBits a = stateBits b) : a = b := by
  cases a <;> cases b <;> first | rfl | (exact absurd h (by decide))

end Sys2Proof.Machine
end

