-- ==== Sys2Proof/Laws/Encoder.lean ====
section
/-! SUPPORT. What the two Encoder functions compute, bit by bit and in arithmetic (40_encoder.md R103, R109). -/

namespace Sys2Proof.Machine

open Sys2Proof.Safety

/-- The facility shifted to its field stays below bit 62 for every legal width (R103). -/
theorem facility_shift_lt {c : Config} (h : c.Legal) (f : Byte) :
    f.toNat * 2 ^ (c.encBits - 10) < 2 ^ 62 := by
  have hf := f.isLt
  have hp : 2 ^ (c.encBits - 10) ≤ 2 ^ 54 := Nat.pow_le_pow_right (by decide) (by have := h.2.2; omega)
  calc f.toNat * 2 ^ (c.encBits - 10) ≤ 255 * 2 ^ 54 := Nat.mul_le_mul (by omega) hp
    _ < 2 ^ 62 := by decide

theorem packRaw_toNat {c : Config} (h : c.Legal) (f : Byte) (id : Wide) :
    (packRaw c.encBits f id).toNat = (f.toNat * 2 ^ (c.encBits - 10)) ||| id.toNat := by
  have hlt := facility_shift_lt h f
  have hf : f.toNat % 2 ^ 64 = f.toNat := Nat.mod_eq_of_lt (by have := f.isLt; omega)
  simp only [packRaw, zext64, idWidth, BitVec.toNat_or, BitVec.toNat_shiftLeft, BitVec.toNat_setWidth,
    Nat.shiftLeft_eq, hf]
  rw [Nat.mod_eq_of_lt (by omega)]

/-- The raw code's bits: the facility from bit `B-10` up, ORed with the id. -/
theorem packRaw_getLsbD {c : Config} (h : c.Legal) (f : Byte) (id : Wide) (j : Nat) :
    (packRaw c.encBits f id).getLsbD j =
      ((decide (c.encBits - 10 ≤ j) && f.getLsbD (j - (c.encBits - 10))) || id.getLsbD j) := by
  have := h.2.2
  simp only [packRaw, zext64, idWidth, BitVec.getLsbD_or, BitVec.getLsbD_shiftLeft, BitVec.getLsbD_setWidth]
  by_cases hj : j < 64
  · by_cases hb : c.encBits - 10 ≤ j
    · have h1 : ¬ j < c.encBits - 10 := by omega
      have h2 : j - (c.encBits - 10) < 64 := by omega
      simp [hj, hb, h1, h2]
    · have h1 : j < c.encBits - 10 := by omega
      simp [hj, h1, hb]
  · have h1 : f.getLsbD (j - (c.encBits - 10)) = false := BitVec.getLsbD_of_ge _ _ (by omega)
    simp [hj, h1]

/-- Every bit of the on-the-wire code (R109). -/
theorem attachParity_getLsbD {c : Config} (h : c.Legal) (raw : Wide) {j : Nat} (hj : j < 64) :
    (attachParity c.encBits raw).getLsbD j =
      if j = 0 then oddParity c.encBits raw
      else (raw.getLsbD (j - 1) || (decide (j = c.encBits - 1) && evenParity c.encBits raw)) := by
  obtain ⟨-, h10, h64⟩ := h
  simp only [attachParity, BitVec.getLsbD_or, BitVec.getLsbD_shiftLeft, BitVec.getLsbD_setWidth,
    BitVec.getLsbD_ofBool]
  by_cases h0 : j = 0
  · subst h0
    simp [show 0 < c.encBits - 1 by omega]
  · by_cases he : j = c.encBits - 1
    · subst he
      simp [hj, h0, show ¬ c.encBits - 1 < 1 by omega]
    · by_cases hlt : j < c.encBits - 1
      · simp [hj, h0, he, hlt, show ¬ j < 1 by omega]
      · simp [hj, h0, he, hlt, show ¬ j < 1 by omega, show j - (c.encBits - 1) ≠ 0 by omega]

end Sys2Proof.Machine
end

