-- ==== Sys2Proof/Laws/Operands.lean ====
section
/-! SUPPORT. The operand forms of `SEND` in arithmetic (41_transmitter.md R135). -/

namespace Sys2Proof.Machine

theorem badCount_iff (n : Byte) : badCount n = true ↔ n.toNat = 0 ∨ 64 < n.toNat := by
  simp [badCount]

theorem isWide_iff (n : Byte) : isWide n = true ↔ 32 < n.toNat := by
  simp [isWide]

theorem highWord_toNat (code : Wide) : (highWord code).toNat = code.toNat / 2 ^ 32 := by
  have := code.isLt
  simp only [highWord, BitVec.extractLsb'_toNat, Nat.shiftRight_eq_div_pow]
  omega

theorem lowWord_toNat (code : Wide) : (lowWord code).toNat = code.toNat % 2 ^ 32 := by
  simp [lowWord, BitVec.extractLsb'_toNat]

/-- A one shifted inside a 32-bit word is a power of two. -/
theorem one_shiftLeft_toNat {k : Nat} (h : k < 32) : (1#32 <<< k).toNat = 2 ^ k := by
  have : 2 ^ k < 2 ^ 32 := Nat.pow_lt_pow_right (by decide) h
  simp only [BitVec.toNat_shiftLeft, BitVec.toNat_ofNat, Nat.shiftLeft_eq]
  omega

/-- The first mask is the bit of the first bit sent, in the word that holds it. -/
theorem firstMask_toNat {n : Byte} (h1 : 1 ≤ n.toNat) (h64 : n.toNat ≤ 64) :
    (firstMask n).toNat = 2 ^ ((n.toNat - 1) % 32) := by
  unfold firstMask
  split
  · rename_i h
    rw [isWide_iff] at h
    rw [one_shiftLeft_toNat (by omega)]
    congr 1
    omega
  · rename_i h
    rw [isWide_iff] at h
    rw [one_shiftLeft_toNat (by omega)]
    congr 1
    omega

/-- The first word is the one that holds the first bit sent. -/
theorem firstWord_toNat (code : Wide) (n : Byte) :
    (firstWord code n).toNat = if 32 < n.toNat then code.toNat / 2 ^ 32 else code.toNat % 2 ^ 32 := by
  unfold firstWord
  simp only [isWide_iff]
  split
  · exact highWord_toNat code
  · exact lowWord_toNat code

end Sys2Proof.Machine
end

