-- ==== Sys2Proof/Laws/State.lean ====
section
/-! SUPPORT. One lemma per field per update of State, so that no later proof unfolds a record update. -/

namespace Sys2Proof.Machine.State

variable (s : State)

@[simp] theorem openStep_config : s.openStep.config = s.config := rfl
@[simp] theorem openStep_port : s.openStep.port = s.port := rfl
@[simp] theorem openStep_mark : s.openStep.mark = s.mark := rfl
@[simp] theorem openStep_txState : s.openStep.txState = s.txState := rfl
@[simp] theorem openStep_code : s.openStep.code = s.code := rfl
@[simp] theorem openStep_codeExt : s.openStep.codeExt = s.codeExt := rfl
@[simp] theorem openStep_mask : s.openStep.mask = s.mask := rfl
@[simp] theorem openStep_remain : s.openStep.remain = s.remain := rfl
@[simp] theorem openStep_pos : s.openStep.pos = s.pos := rfl
@[simp] theorem openStep_ld0 : s.openStep.ld0 = s.ld0 := rfl
@[simp] theorem openStep_ld1 : s.openStep.ld1 = s.ld1 := rfl
@[simp] theorem openStep_response : s.openStep.response = .silent := rfl
@[simp] theorem openStep_lineOps : s.openStep.lineOps = [] := rfl

@[simp] theorem respond_config (r : Response) : (s.respond r).config = s.config := rfl
@[simp] theorem respond_port (r : Response) : (s.respond r).port = s.port := rfl
@[simp] theorem respond_mark (r : Response) : (s.respond r).mark = s.mark := rfl
@[simp] theorem respond_txState (r : Response) : (s.respond r).txState = s.txState := rfl
@[simp] theorem respond_code (r : Response) : (s.respond r).code = s.code := rfl
@[simp] theorem respond_codeExt (r : Response) : (s.respond r).codeExt = s.codeExt := rfl
@[simp] theorem respond_mask (r : Response) : (s.respond r).mask = s.mask := rfl
@[simp] theorem respond_remain (r : Response) : (s.respond r).remain = s.remain := rfl
@[simp] theorem respond_pos (r : Response) : (s.respond r).pos = s.pos := rfl
@[simp] theorem respond_ld0 (r : Response) : (s.respond r).ld0 = s.ld0 := rfl
@[simp] theorem respond_ld1 (r : Response) : (s.respond r).ld1 = s.ld1 := rfl
@[simp] theorem respond_response (r : Response) : (s.respond r).response = r := rfl
@[simp] theorem respond_lineOps (r : Response) : (s.respond r).lineOps = s.lineOps := rfl

@[simp] theorem logOp_config (l : Line) (op : LineOp) : (s.logOp l op).config = s.config := rfl
@[simp] theorem logOp_port (l : Line) (op : LineOp) : (s.logOp l op).port = s.port := rfl
@[simp] theorem logOp_mark (l : Line) (op : LineOp) : (s.logOp l op).mark = s.mark := rfl
@[simp] theorem logOp_txState (l : Line) (op : LineOp) : (s.logOp l op).txState = s.txState := rfl
@[simp] theorem logOp_code (l : Line) (op : LineOp) : (s.logOp l op).code = s.code := rfl
@[simp] theorem logOp_codeExt (l : Line) (op : LineOp) : (s.logOp l op).codeExt = s.codeExt := rfl
@[simp] theorem logOp_mask (l : Line) (op : LineOp) : (s.logOp l op).mask = s.mask := rfl
@[simp] theorem logOp_remain (l : Line) (op : LineOp) : (s.logOp l op).remain = s.remain := rfl
@[simp] theorem logOp_pos (l : Line) (op : LineOp) : (s.logOp l op).pos = s.pos := rfl
@[simp] theorem logOp_ld0 (l : Line) (op : LineOp) : (s.logOp l op).ld0 = s.ld0 := rfl
@[simp] theorem logOp_ld1 (l : Line) (op : LineOp) : (s.logOp l op).ld1 = s.ld1 := rfl
@[simp] theorem logOp_response (l : Line) (op : LineOp) : (s.logOp l op).response = s.response := rfl
@[simp] theorem logOp_lineOps (l : Line) (op : LineOp) : (s.logOp l op).lineOps = s.lineOps ++ [{ line := l, op := op }] := rfl

@[simp] theorem latchJob_config (code : Wide) (n : Byte) : (s.latchJob code n).config = s.config := rfl
@[simp] theorem latchJob_port (code : Wide) (n : Byte) : (s.latchJob code n).port = s.port := rfl
@[simp] theorem latchJob_mark (code : Wide) (n : Byte) : (s.latchJob code n).mark = s.mark := rfl
@[simp] theorem latchJob_txState (code : Wide) (n : Byte) : (s.latchJob code n).txState = .sending := rfl
@[simp] theorem latchJob_code (code : Wide) (n : Byte) : (s.latchJob code n).code = firstWord code n := rfl
@[simp] theorem latchJob_codeExt (code : Wide) (n : Byte) : (s.latchJob code n).codeExt = if isWide n then lowWord code else s.codeExt := rfl
@[simp] theorem latchJob_mask (code : Wide) (n : Byte) : (s.latchJob code n).mask = firstMask n := rfl
@[simp] theorem latchJob_remain (code : Wide) (n : Byte) : (s.latchJob code n).remain = n := rfl
@[simp] theorem latchJob_pos (code : Wide) (n : Byte) : (s.latchJob code n).pos = 0#8 := rfl
@[simp] theorem latchJob_ld0 (code : Wide) (n : Byte) : (s.latchJob code n).ld0 = s.ld0 := rfl
@[simp] theorem latchJob_ld1 (code : Wide) (n : Byte) : (s.latchJob code n).ld1 = s.ld1 := rfl
@[simp] theorem latchJob_response (code : Wide) (n : Byte) : (s.latchJob code n).response = s.response := rfl
@[simp] theorem latchJob_lineOps (code : Wide) (n : Byte) : (s.latchJob code n).lineOps = s.lineOps := rfl

@[simp] theorem shiftMask_config : s.shiftMask.config = s.config := rfl
@[simp] theorem shiftMask_port : s.shiftMask.port = s.port := rfl
@[simp] theorem shiftMask_mark : s.shiftMask.mark = s.mark := rfl
@[simp] theorem shiftMask_txState : s.shiftMask.txState = s.txState := rfl
@[simp] theorem shiftMask_code : s.shiftMask.code = s.code := rfl
@[simp] theorem shiftMask_codeExt : s.shiftMask.codeExt = s.codeExt := rfl
@[simp] theorem shiftMask_mask : s.shiftMask.mask = s.mask >>> 1 := rfl
@[simp] theorem shiftMask_remain : s.shiftMask.remain = s.remain := rfl
@[simp] theorem shiftMask_pos : s.shiftMask.pos = s.pos := rfl
@[simp] theorem shiftMask_ld0 : s.shiftMask.ld0 = s.ld0 := rfl
@[simp] theorem shiftMask_ld1 : s.shiftMask.ld1 = s.ld1 := rfl
@[simp] theorem shiftMask_response : s.shiftMask.response = s.response := rfl
@[simp] theorem shiftMask_lineOps : s.shiftMask.lineOps = s.lineOps := rfl

@[simp] theorem countBit_config : s.countBit.config = s.config := rfl
@[simp] theorem countBit_port : s.countBit.port = s.port := rfl
@[simp] theorem countBit_mark : s.countBit.mark = s.mark := rfl
@[simp] theorem countBit_txState : s.countBit.txState = s.txState := rfl
@[simp] theorem countBit_code : s.countBit.code = s.code := rfl
@[simp] theorem countBit_codeExt : s.countBit.codeExt = s.codeExt := rfl
@[simp] theorem countBit_mask : s.countBit.mask = s.mask := rfl
@[simp] theorem countBit_remain : s.countBit.remain = s.remain - 1#8 := rfl
@[simp] theorem countBit_pos : s.countBit.pos = s.pos := rfl
@[simp] theorem countBit_ld0 : s.countBit.ld0 = s.ld0 := rfl
@[simp] theorem countBit_ld1 : s.countBit.ld1 = s.ld1 := rfl
@[simp] theorem countBit_response : s.countBit.response = s.response := rfl
@[simp] theorem countBit_lineOps : s.countBit.lineOps = s.lineOps := rfl

@[simp] theorem toIdle_config : s.toIdle.config = s.config := rfl
@[simp] theorem toIdle_port : s.toIdle.port = s.port := rfl
@[simp] theorem toIdle_mark : s.toIdle.mark = s.mark := rfl
@[simp] theorem toIdle_txState : s.toIdle.txState = .idle := rfl
@[simp] theorem toIdle_code : s.toIdle.code = s.code := rfl
@[simp] theorem toIdle_codeExt : s.toIdle.codeExt = s.codeExt := rfl
@[simp] theorem toIdle_mask : s.toIdle.mask = s.mask := rfl
@[simp] theorem toIdle_remain : s.toIdle.remain = s.remain := rfl
@[simp] theorem toIdle_pos : s.toIdle.pos = s.pos := rfl
@[simp] theorem toIdle_ld0 : s.toIdle.ld0 = s.ld0 := rfl
@[simp] theorem toIdle_ld1 : s.toIdle.ld1 = s.ld1 := rfl
@[simp] theorem toIdle_response : s.toIdle.response = s.response := rfl
@[simp] theorem toIdle_lineOps : s.toIdle.lineOps = s.lineOps := rfl

@[simp] theorem endTick_config : s.endTick.config = s.config := by
  simp only [endTick, carryOver]; split <;> rfl
@[simp] theorem endTick_port : s.endTick.port = s.port := by
  simp only [endTick, carryOver]; split <;> rfl
@[simp] theorem endTick_mark : s.endTick.mark = s.mark := by
  simp only [endTick, carryOver]; split <;> rfl
@[simp] theorem endTick_txState : s.endTick.txState = s.txState := by
  simp only [endTick, carryOver]; split <;> rfl
@[simp] theorem endTick_code : s.endTick.code = s.carryOver.code := rfl
@[simp] theorem endTick_codeExt : s.endTick.codeExt = s.codeExt := by
  simp only [endTick, carryOver]; split <;> rfl
@[simp] theorem endTick_mask : s.endTick.mask = s.carryOver.mask := rfl
@[simp] theorem endTick_remain : s.endTick.remain = s.remain := by
  simp only [endTick, carryOver]; split <;> rfl
@[simp] theorem endTick_pos : s.endTick.pos = s.pos + 1#8 := rfl
@[simp] theorem endTick_ld0 : s.endTick.ld0 = s.ld0 := by
  simp only [endTick, carryOver]; split <;> rfl
@[simp] theorem endTick_ld1 : s.endTick.ld1 = s.ld1 := by
  simp only [endTick, carryOver]; split <;> rfl
@[simp] theorem endTick_response : s.endTick.response = s.response := by
  simp only [endTick, carryOver]; split <;> rfl
@[simp] theorem endTick_lineOps : s.endTick.lineOps = s.lineOps := by
  simp only [endTick, carryOver]; split <;> rfl

@[simp] theorem offerRequest_config (w : Request) : (s.offerRequest w).config = s.config := rfl
@[simp] theorem offerRequest_port (w : Request) : (s.offerRequest w).port = w :: s.port := rfl
@[simp] theorem offerRequest_mark (w : Request) : (s.offerRequest w).mark = s.mark := rfl
@[simp] theorem offerRequest_txState (w : Request) : (s.offerRequest w).txState = s.txState := rfl
@[simp] theorem offerRequest_code (w : Request) : (s.offerRequest w).code = s.code := rfl
@[simp] theorem offerRequest_codeExt (w : Request) : (s.offerRequest w).codeExt = s.codeExt := rfl
@[simp] theorem offerRequest_mask (w : Request) : (s.offerRequest w).mask = s.mask := rfl
@[simp] theorem offerRequest_remain (w : Request) : (s.offerRequest w).remain = s.remain := rfl
@[simp] theorem offerRequest_pos (w : Request) : (s.offerRequest w).pos = s.pos := rfl
@[simp] theorem offerRequest_ld0 (w : Request) : (s.offerRequest w).ld0 = s.ld0 := rfl
@[simp] theorem offerRequest_ld1 (w : Request) : (s.offerRequest w).ld1 = s.ld1 := rfl
@[simp] theorem offerRequest_response (w : Request) : (s.offerRequest w).response = s.response := rfl
@[simp] theorem offerRequest_lineOps (w : Request) : (s.offerRequest w).lineOps = s.lineOps := rfl

@[simp] theorem carryOver_mask : s.carryOver.mask = if s.mask = 0#32 then topBit else s.mask := by
  simp only [carryOver]; split <;> rfl
@[simp] theorem carryOver_code : s.carryOver.code = if s.mask = 0#32 then s.codeExt else s.code := by
  simp only [carryOver]; split <;> rfl

@[simp] theorem setDriver_config (l : Line) (d : Driver) : (s.setDriver l d).config = s.config := by
  cases l <;> rfl
@[simp] theorem setDriver_port (l : Line) (d : Driver) : (s.setDriver l d).port = s.port := by
  cases l <;> rfl
@[simp] theorem setDriver_mark (l : Line) (d : Driver) : (s.setDriver l d).mark = s.mark := by
  cases l <;> rfl
@[simp] theorem setDriver_txState (l : Line) (d : Driver) : (s.setDriver l d).txState = s.txState := by
  cases l <;> rfl
@[simp] theorem setDriver_code (l : Line) (d : Driver) : (s.setDriver l d).code = s.code := by
  cases l <;> rfl
@[simp] theorem setDriver_codeExt (l : Line) (d : Driver) : (s.setDriver l d).codeExt = s.codeExt := by
  cases l <;> rfl
@[simp] theorem setDriver_mask (l : Line) (d : Driver) : (s.setDriver l d).mask = s.mask := by
  cases l <;> rfl
@[simp] theorem setDriver_remain (l : Line) (d : Driver) : (s.setDriver l d).remain = s.remain := by
  cases l <;> rfl
@[simp] theorem setDriver_pos (l : Line) (d : Driver) : (s.setDriver l d).pos = s.pos := by
  cases l <;> rfl
@[simp] theorem setDriver_response (l : Line) (d : Driver) : (s.setDriver l d).response = s.response := by
  cases l <;> rfl
@[simp] theorem setDriver_lineOps (l : Line) (d : Driver) : (s.setDriver l d).lineOps = s.lineOps := by
  cases l <;> rfl
@[simp] theorem setDriver_d0_ld0 (d : Driver) : (s.setDriver .d0 d).ld0 = d := rfl
@[simp] theorem setDriver_d0_ld1 (d : Driver) : (s.setDriver .d0 d).ld1 = s.ld1 := rfl
@[simp] theorem setDriver_d1_ld0 (d : Driver) : (s.setDriver .d1 d).ld0 = s.ld0 := rfl
@[simp] theorem setDriver_d1_ld1 (d : Driver) : (s.setDriver .d1 d).ld1 = d := rfl
@[simp] theorem driver_d0 : s.driver .d0 = s.ld0 := rfl
@[simp] theorem driver_d1 : s.driver .d1 = s.ld1 := rfl

@[simp] theorem driver_setDriver (l m : Line) (d : Driver) :
    (s.setDriver l d).driver m = if m = l then d else s.driver m := by
  cases l <;> cases m <;> rfl

@[simp] theorem driver_logOp (l m : Line) (op : LineOp) : (s.logOp l op).driver m = s.driver m := by
  cases m <;> rfl

@[simp] theorem stopWith_config (m : Mark) : (s.stopWith m).config = s.config := rfl
@[simp] theorem stopWith_port (m : Mark) : (s.stopWith m).port = s.port := rfl
@[simp] theorem stopWith_txState (m : Mark) : (s.stopWith m).txState = s.txState := rfl
@[simp] theorem stopWith_code (m : Mark) : (s.stopWith m).code = s.code := rfl
@[simp] theorem stopWith_codeExt (m : Mark) : (s.stopWith m).codeExt = s.codeExt := rfl
@[simp] theorem stopWith_mask (m : Mark) : (s.stopWith m).mask = s.mask := rfl
@[simp] theorem stopWith_remain (m : Mark) : (s.stopWith m).remain = s.remain := rfl
@[simp] theorem stopWith_pos (m : Mark) : (s.stopWith m).pos = s.pos := rfl
@[simp] theorem stopWith_ld0 (m : Mark) : (s.stopWith m).ld0 = s.ld0 := rfl
@[simp] theorem stopWith_ld1 (m : Mark) : (s.stopWith m).ld1 = s.ld1 := rfl
@[simp] theorem stopWith_mark (m : Mark) : (s.stopWith m).mark = m := rfl
@[simp] theorem stopWith_response (m : Mark) : (s.stopWith m).response = .silent := rfl
@[simp] theorem stopWith_lineOps (m : Mark) : (s.stopWith m).lineOps = [] := rfl

@[simp] theorem settle_next (t : State) : s.settle (.next t) = t := rfl
@[simp] theorem settle_fault (f : Fault) : s.settle (.fault f) = s.stopWith (.faulted f) := rfl
@[simp] theorem settle_refused (r : Refusal) : s.settle (.refused r) = s.stopWith (.refused r) := rfl

end Sys2Proof.Machine.State
end

