-- ==== Sys2Proof/Laws/Ops.lean ====
section
/-! SUPPORT. What each shared operation can do: sequencing, line operations, the port, and the marks. -/

namespace Sys2Proof.Machine

@[simp] theorem andThen_next (s : State) (f : State → Result) : andThen (.next s) f = f s := rfl

@[simp] theorem andThen_fault (r : Fault) (f : State → Result) : andThen (.fault r) f = .fault r := rfl

@[simp] theorem andThen_refused (r : Refusal) (f : State → Result) : andThen (.refused r) f = .refused r := rfl

/-- A sequence answers a next state exactly when both its parts do. -/
theorem andThen_eq_next {o : Result} {f : State → Result} {t : State} :
    andThen o f = .next t ↔ ∃ s, o = .next s ∧ f s = .next t := by
  cases o <;> simp [andThen]

/-- A sequence faults in its first part or in its second. -/
theorem andThen_eq_fault {o : Result} {f : State → Result} {r : Fault} :
    andThen o f = .fault r ↔ o = .fault r ∨ ∃ s, o = .next s ∧ f s = .fault r := by
  cases o <;> simp [andThen]

/-- A sequence is refused only by one of its parts. -/
theorem andThen_eq_refused {o : Result} {f : State → Result} {r : Refusal} :
    andThen o f = .refused r ↔ o = .refused r ∨ ∃ s, o = .next s ∧ f s = .refused r := by
  cases o <;> simp [andThen]

/-- A line operation on a line it may be used on moves that driver and is listed (10_state.md R30). -/
theorem lineOp_of_legal {l : Line} {op : LineOp} {s : State} (h : misused op (s.driver l) = false) :
    lineOp l op s = .next ((s.setDriver l (driverAfter op)).logOp l op) := by
  simp [lineOp, h]

/-- Everything a line operation can do. -/
theorem lineOp_cases (l : Line) (op : LineOp) (s : State) :
    (misused op (s.driver l) = true ∧ lineOp l op s = .fault (.lineMisuse l op)) ∨
      (misused op (s.driver l) = false ∧
        lineOp l op s = .next ((s.setDriver l (driverAfter op)).logOp l op)) := by
  cases h : misused op (s.driver l) <;> simp [lineOp, h]

theorem lineOp_ne_refused {l : Line} {op : LineOp} {s : State} {r : Refusal} :
    lineOp l op s ≠ .refused r := by
  rcases lineOp_cases l op s with ⟨_, h⟩ | ⟨_, h⟩ <;> simp [h]

/-- The state both lines are in after the same operation on each. -/
def bothAfter (op : LineOp) (s : State) : State :=
  ((((s.setDriver .d0 (driverAfter op)).logOp .d0 op).setDriver .d1 (driverAfter op)).logOp .d1 op)

/-- Everything the same operation on both lines can do. -/
theorem bothLines_cases (op : LineOp) (s : State) :
    (misused op s.ld0 = true ∧ bothLines op s = .fault (.lineMisuse .d0 op)) ∨
      (misused op s.ld0 = false ∧ misused op s.ld1 = true ∧
        bothLines op s = .fault (.lineMisuse .d1 op)) ∨
      (misused op s.ld0 = false ∧ misused op s.ld1 = false ∧
        bothLines op s = .next (bothAfter op s)) := by
  cases h0 : misused op s.ld0 <;> cases h1 : misused op s.ld1 <;>
    simp [bothLines, lineOp, bothAfter, h0, h1]

@[simp] theorem bothLines_asOutput (s : State) : bothLines .asOutput s = .next (bothAfter .asOutput s) := rfl

@[simp] theorem bothLines_asInput (s : State) : bothLines .asInput s = .next (bothAfter .asInput s) := rfl

/-- Releasing both lines succeeds on lines in output mode. -/
theorem bothLines_releaseHigh {s : State} (h0 : s.ld0 ≠ .float) (h1 : s.ld1 ≠ .float) :
    bothLines .releaseHigh s = .next (bothAfter .releaseHigh s) := by
  rcases bothLines_cases .releaseHigh s with ⟨h, _⟩ | ⟨_, h, _⟩ | ⟨_, _, h⟩
  · simp [misused, h0] at h
  · simp [misused, h1] at h
  · exact h

/-- What the same operation on both lines leaves behind. -/
theorem bothAfter_eq (op : LineOp) (s : State) :
    bothAfter op s =
      { s with
        ld0 := driverAfter op
        ld1 := driverAfter op
        lineOps := s.lineOps ++ [⟨.d0, op⟩, ⟨.d1, op⟩] } := by
  simp [bothAfter, State.setDriver, State.logOp]

@[simp] theorem built_iff (s : State) : s.built = true ↔ s.config.Legal := by
  simp [State.built]

@[simp] theorem takeRequest_nil {s : State} (h : s.port = []) : s.takeRequest = none := by
  simp [State.takeRequest, h]

@[simp] theorem takeRequest_cons {s : State} {w : Request} {rest : List Request}
    (h : s.port = w :: rest) : s.takeRequest = some (w, { s with port := rest }) := by
  simp [State.takeRequest, h]

@[simp] theorem markedStop_eq_none (s : State) : s.markedStop = none ↔ s.mark = .clear := by
  cases h : s.mark <;> simp [State.markedStop, h]

@[simp] theorem takeRequest_offerRequest (s : State) (w : Request) :
    (s.offerRequest w).takeRequest = some (w, s) := rfl

end Sys2Proof.Machine
end

