-- ==== Sys2Proof/Laws/Transmitter.lean ====
section
/-! SUPPORT. What `SEND` and each phase of `TICK` can do (41_transmitter.md R136, R151). -/

namespace Sys2Proof.Machine

/-- Everything `SEND` can do (R136). -/
theorem execSend_cases (code : Wide) (n : Byte) (s : State) :
    (s.txState ≠ .idle ∧ execSend code n s = .next (s.openStep.respond (.accepted false))) ∨
      (s.txState = .idle ∧ badCount n = true ∧ execSend code n s = .fault (.badBitCount n)) ∨
      (s.txState = .idle ∧ badCount n = false ∧
        execSend code n s = .next ((s.openStep.latchJob code n).respond (.accepted true))) := by
  by_cases h : s.txState = .idle
  · cases hb : badCount n <;> simp [execSend, h, hb]
  · simp [execSend, h]

theorem phase_toNat (s : State) : s.phase.toNat = s.pos.toNat % 4 := by
  simp [State.phase, BitVec.extractLsb'_toNat]

theorem phase_eq_iff (s : State) (p : BitVec 2) : s.phase = p ↔ s.pos.toNat % 4 = p.toNat := by
  rw [← phase_toNat, BitVec.toNat_inj]

/-- The phase action by `POS mod 4` (R142). -/
theorem phaseAction_eq (s : State) :
    phaseAction s =
      if s.pos.toNat % 4 = 0 then assertPhase s
      else if s.pos.toNat % 4 = 1 then releasePhase s
      else gapPhase s := by
  simp only [phaseAction, phase_eq_iff]
  rfl

@[simp] theorem execTick_outside {s : State} (h : s.txState ≠ .sending) : execTick s = .next s.openStep := by
  simp [execTick, h]

/-- The first tick's preparation leaves a state, whatever the lines were (R143). -/
theorem firstTick_eq (s : State) :
    firstTick s = .next (if s.pos = 0#8 then bothAfter .asOutput s else s) := by
  unfold firstTick
  split <;> rfl

/-- `TICK` in `SENDING` is the phase action on the prepared state (R151). -/
theorem execTick_sending {s : State} (h : s.txState = .sending) :
    execTick s =
      phaseAction (if s.openStep.pos = 0#8 then bothAfter .asOutput s.openStep else s.openStep) := by
  simp [execTick, h, firstTick_eq]

/-- Everything phase 0 can do (R144, R145). -/
theorem assertPhase_cases (s : State) :
    (s.driver (lineFor s.currentBit) = .float ∧
        assertPhase s = .fault (.lineMisuse (lineFor s.currentBit) .driveLow)) ∨
      (s.driver (lineFor s.currentBit) ≠ .float ∧
        assertPhase s = .next
          ((s.setDriver (lineFor s.currentBit) .outLow).logOp (lineFor s.currentBit) .driveLow).shiftMask.endTick) := by
  rcases lineOp_cases (lineFor s.currentBit) .driveLow s with ⟨hm, h⟩ | ⟨hm, h⟩
  · left
    exact ⟨by simpa [misused] using hm, by simp [assertPhase, writeBit, h]⟩
  · right
    exact ⟨by simpa [misused] using hm, by simp [assertPhase, writeBit, h, driverAfter]⟩

/-- The terminal tick always ends in `IDLE` (R149). -/
theorem terminalTick_eq (s : State) : terminalTick s = .next (bothAfter .asInput s).toIdle := rfl

/-- Everything phase 1 can do (R147, R149). -/
theorem releasePhase_cases (s : State) :
    (s.ld0 = .float ∧ releasePhase s = .fault (.lineMisuse .d0 .releaseHigh)) ∨
      (s.ld0 ≠ .float ∧ s.ld1 = .float ∧ releasePhase s = .fault (.lineMisuse .d1 .releaseHigh)) ∨
      (s.ld0 ≠ .float ∧ s.ld1 ≠ .float ∧ s.remain = 1#8 ∧
        releasePhase s = .next (bothAfter .asInput (bothAfter .releaseHigh s).countBit).toIdle) ∨
      (s.ld0 ≠ .float ∧ s.ld1 ≠ .float ∧ s.remain ≠ 1#8 ∧
        releasePhase s = .next (bothAfter .releaseHigh s).countBit.endTick) := by
  have hr : (bothAfter .releaseHigh s).remain = s.remain := by simp [bothAfter_eq]
  rcases bothLines_cases .releaseHigh s with ⟨h0, h⟩ | ⟨h0, h1, h⟩ | ⟨h0, h1, h⟩
  · exact .inl ⟨by simpa [misused] using h0, by simp [releasePhase, h]⟩
  · exact .inr (.inl ⟨by simpa [misused] using h0, by simpa [misused] using h1, by simp [releasePhase, h]⟩)
  · have h0' : s.ld0 ≠ .float := by simpa [misused] using h0
    have h1' : s.ld1 ≠ .float := by simpa [misused] using h1
    by_cases hl : s.remain = 1#8
    · refine .inr (.inr (.inl ⟨h0', h1', hl, ?_⟩))
      simp [releasePhase, h, hr, hl, terminalTick_eq]
    · have hne : s.remain - 1#8 ≠ 0#8 := by bv_omega
      refine .inr (.inr (.inr ⟨h0', h1', hl, ?_⟩))
      simp [releasePhase, h, hr, hne]

/-- The current bit in arithmetic (R144). -/
theorem currentBit_eq (s : State) : s.currentBit = decide (s.code.toNat &&& s.mask.toNat ≠ 0) := by
  unfold State.currentBit
  by_cases h : s.code &&& s.mask = 0#32
  · have : s.code.toNat &&& s.mask.toNat = 0 := by rw [← BitVec.toNat_and, h]; rfl
    simp [h, this]
  · have : s.code.toNat &&& s.mask.toNat ≠ 0 := by
      intro e; apply h; apply BitVec.eq_of_toNat_eq; rw [BitVec.toNat_and, e]; rfl
    simp [h, this]

/-- The mask's fall in arithmetic (R144). -/
theorem shift_eq (m : Word) : m >>> 1 = BitVec.ofNat 32 (m.toNat / 2) := by
  apply BitVec.eq_of_toNat_eq
  have := m.isLt
  rw [BitVec.toNat_ushiftRight, Nat.shiftRight_eq_div_pow]; simp; omega

/-- The mask falls to 0 exactly from a value below 2 (R146). -/
theorem shift_zero_iff (m : Word) : m >>> 1 = 0#32 ↔ m.toNat / 2 = 0 := by
  rw [← BitVec.toNat_inj, BitVec.toNat_ushiftRight, Nat.shiftRight_eq_div_pow]; simp

/-- `POS + 1` in arithmetic (R150). -/
theorem pos_inc (p : Byte) : p + 1#8 = BitVec.ofNat 8 (p.toNat + 1) := by
  apply BitVec.eq_of_toNat_eq; simp

/-- `REMAIN - 1` in arithmetic (R147). -/
theorem remain_dec {p : Byte} (h : 1 ≤ p.toNat) : p - 1#8 = BitVec.ofNat 8 (p.toNat - 1) := by
  apply BitVec.eq_of_toNat_eq; have := p.isLt; simp; omega

/-- The line phase 0 drives (R145). -/
theorem lineFor_currentBit (s : State) : lineFor s.currentBit = if s.code &&& s.mask = 0#32 then .d0 else .d1 := by
  unfold lineFor State.currentBit
  by_cases h : s.code &&& s.mask = 0#32 <;> simp [h]

/-- The first word of a job in arithmetic (R135). -/
theorem firstWord_eq (code : Wide) (n : Byte) : firstWord code n = BitVec.ofNat 32 (if 32 < n.toNat then code.toNat / 2 ^ 32 else code.toNat) := by
  apply BitVec.eq_of_toNat_eq
  rw [firstWord_toNat]
  have := code.isLt
  simp only [BitVec.toNat_ofNat]
  split_ifs <;> omega

/-- The extension word of a job in arithmetic (R135). -/
theorem lowWord_eq (code : Wide) : lowWord code = BitVec.ofNat 32 code.toNat := by
  apply BitVec.eq_of_toNat_eq
  rw [lowWord_toNat]; simp

/-- The first mask of a job in arithmetic (R135). -/
theorem firstMask_eq {n : Byte} (h1 : 1 ≤ n.toNat) (h64 : n.toNat ≤ 64) : firstMask n = BitVec.ofNat 32 (if 32 < n.toNat then 2 ^ (n.toNat - 33) else 2 ^ (n.toNat - 1)) := by
  apply BitVec.eq_of_toNat_eq
  rw [firstMask_toNat h1 h64]
  simp only [BitVec.toNat_ofNat]
  split_ifs with h
  · rw [show (n.toNat - 1) % 32 = n.toNat - 33 by omega, Nat.mod_eq_of_lt]
    exact Nat.pow_lt_pow_right (by decide) (by omega)
  · rw [show (n.toNat - 1) % 32 = n.toNat - 1 by omega, Nat.mod_eq_of_lt]
    exact Nat.pow_lt_pow_right (by decide) (by omega)

/-- The lines a phase-0 tick finds: in output mode at the first tick of a job, as they were at a later one (R143). -/
def prepared (s : State) : State :=
  if s.openStep.pos = 0#8 then bothAfter .asOutput s.openStep else s.openStep

/-- A tick of phase 0 (R142, R143). -/
theorem execTick_assert {s : State} (h : s.txState = .sending) (hp : s.pos.toNat % 4 = 0) :
    execTick s = assertPhase (prepared s) := by
  have hp' : (prepared s).pos.toNat % 4 = 0 := by
    unfold prepared
    split
    · simpa [bothAfter_eq] using hp
    · exact hp
  rw [execTick_sending h, phaseAction_eq]
  exact if_pos hp'

/-- A tick of another phase finds the lines as they were. -/
theorem execTick_later {s : State} (h : s.txState = .sending) (hp : s.pos.toNat % 4 ≠ 0) :
    execTick s = phaseAction s.openStep := by
  have hp0 : s.openStep.pos ≠ 0#8 := fun e => hp (by rw [show s.pos = 0#8 from e]; rfl)
  rw [execTick_sending h, if_neg hp0]

/-- A tick of phase 1 (R142). -/
theorem execTick_release {s : State} (h : s.txState = .sending) (hp : s.pos.toNat % 4 = 1) :
    execTick s = releasePhase s.openStep := by
  have hp' : s.openStep.pos.toNat % 4 = 1 := hp
  rw [execTick_later h (by omega), phaseAction_eq, if_neg (by omega), if_pos hp']

/-- A tick of phase 2 or 3 (R142). -/
theorem execTick_gap {s : State} (h : s.txState = .sending) (hp : 2 ≤ s.pos.toNat % 4) :
    execTick s = gapPhase s.openStep := by
  have hp' : 2 ≤ s.openStep.pos.toNat % 4 := hp
  rw [execTick_later h (by omega), phaseAction_eq, if_neg (by omega), if_neg (by omega)]

end Sys2Proof.Machine
end

