-- ==== Sys2Proof/Laws/Step.lean ====
section
/-! SUPPORT. Everything a step and a request can do. -/

namespace Sys2Proof.Machine

/-- No request is refused once it is decoded (60_exceptions.md R176). -/
theorem phaseAction_ne_refused (s : State) (r : Refusal) : phaseAction s ≠ .refused r := by
  rw [phaseAction_eq]
  split
  · rcases assertPhase_cases s with ⟨_, h⟩ | ⟨_, h⟩ <;> simp [h]
  · split
    · rcases releasePhase_cases s with ⟨_, h⟩ | ⟨_, _, h⟩ | ⟨_, _, _, h⟩ | ⟨_, _, _, h⟩ <;> simp [h]
    · simp [gapPhase]

/-- The step of a marked run is its mark's stop (60_exceptions.md R173, R174). -/
theorem step_of_faulted {s : State} {f : Fault} (h : s.mark = .faulted f) : step s = .fault f := by
  simp [step, State.markedStop, h]

theorem step_of_refused {s : State} {r : Refusal} (h : s.mark = .refused r) : step s = .refused r := by
  simp [step, State.markedStop, h]

/-- The step of an unmarked, legally built block is decided by its next request. -/
theorem step_of_request {s : State} {w : Request} {rest : List Request} (hm : s.mark = .clear)
    (hc : s.config.Legal) (hp : s.port = w :: rest) :
    step s = match decode w with
      | .ok i    => exec i { s with port := rest }
      | .error e => .refused (refusalOf e) := by
  unfold step
  rw [(markedStop_eq_none s).2 hm, takeRequest_cons hp]
  have hb : s.built = true := (built_iff s).2 hc
  exact if_pos hb

theorem step_of_empty_port {s : State} (hm : s.mark = .clear) (hc : s.config.Legal) (hp : s.port = []) :
    step s = .next s := by
  unfold step
  rw [(markedStop_eq_none s).2 hm, takeRequest_nil hp]
  simp only [(built_iff s).2 hc, if_true]

theorem step_of_illegal {s : State} (hm : s.mark = .clear) (hc : ¬ s.config.Legal) :
    step s = .refused (.illegalEncBits s.config.encBits) := by
  unfold step
  rw [(markedStop_eq_none s).2 hm]
  simp [State.built, hc]

/-- Everything a step can do that answers a next state: nothing waits and nothing changes, or the next request is performed. -/
theorem step_eq_next {s t : State} (h : step s = .next t) :
    s.mark = .clear ∧ s.config.Legal ∧
      ((s.port = [] ∧ t = s) ∨
        ∃ w rest i, s.port = w :: rest ∧ decode w = .ok i ∧ exec i { s with port := rest } = .next t) := by
  have hm : s.mark = .clear := by
    cases hm : s.mark with
    | clear => rfl
    | faulted r => simp [step_of_faulted hm] at h
    | refused r => simp [step_of_refused hm] at h
  have hc : s.config.Legal := by
    by_contra hc
    simp [step_of_illegal hm hc] at h
  refine ⟨hm, hc, ?_⟩
  cases hp : s.port with
  | nil =>
    rw [step_of_empty_port hm hc hp] at h
    exact .inl ⟨rfl, by simpa using h.symm⟩
  | cons w rest =>
    rw [step_of_request hm hc hp] at h
    cases hd : decode w with
    | error e => simp [hd] at h
    | ok i =>
      rw [hd] at h
      exact .inr ⟨w, rest, i, rfl, hd, h⟩

/-- A run goes on after a next state. -/
theorem core_run_next {M : Host.Core} {k : Nat} {s t : M.State} (h : M.step s = .next t) : M.run (k+1) s = M.run k t := by
  rw [Host.Core.run.eq_def]; simp only [h]

/-- A run ends at a fault (60_exceptions.md R173). -/
theorem core_run_fault {M : Host.Core} {k : Nat} {s : M.State} {r} (h : M.step s = .fault r) : M.run (k+1) s = .fault r := by
  rw [Host.Core.run.eq_def]; simp only [h]

/-- A run ends at a refusal (60_exceptions.md R174). -/
theorem core_run_refused {M : Host.Core} {k : Nat} {s : M.State} {r} (h : M.step s = .refused r) : M.run (k+1) s = .refused r := by
  rw [Host.Core.run.eq_def]; simp only [h]

/-- A run of the block goes on after a next state. -/
theorem run_of_next {k : Nat} {s t : State} (h : step s = .next t) : Host.Core.run core (k+1) s = Host.Core.run core k t := core_run_next (M := core) h

/-- A run of the block ends at a fault. -/
theorem run_of_fault {k : Nat} {s : State} {r : Fault} (h : step s = .fault r) : Host.Core.run core (k+1) s = .fault r := core_run_fault (M := core) h

/-- A run of the block ends at a refusal. -/
theorem run_of_refused {k : Nat} {s : State} {r : Refusal} (h : step s = .refused r) : Host.Core.run core (k+1) s = .refused r := core_run_refused (M := core) h

/-- What every step keeps, every run keeps. -/
theorem run_induct {P : State → Prop} (hstep : ∀ s t, P s → step s = .next t → P t) :
    ∀ (k : Nat) (s : State), P s → ∀ t, Host.Core.run core k s = .next t → P t
  | 0, s, hs, t, h => by cases h; exact hs
  | k + 1, s, hs, t, h => by
    cases hst : step s with
    | next u => rw [run_of_next hst] at h; exact run_induct hstep k u (hstep s u hs hst) t h
    | fault r => rw [run_of_fault hst] at h; cases h
    | refused r => rw [run_of_refused hst] at h; cases h

end Sys2Proof.Machine
end

