-- ==== Sys2Proof/Laws/Job.lean ====
section
/-! SUPPORT. The cursor and the lines of a job (10_state.md R38; 41_transmitter.md R144, R146). -/

namespace Sys2Proof.Machine

open Sys2Proof.Safety

/-- A word ANDed with a one-bit mask. -/
theorem and_pow_ne_zero {x m : Word} {b : Nat} (hm : m.toNat = 2 ^ b) : (x.toNat &&& m.toNat ≠ 0) ↔ x.getLsbD b = true := by
  rw [hm, Nat.and_two_pow, BitVec.getLsbD]
  cases x.toNat.testBit b <;> simp

/-- The bit under the cursor is the bit of the code it stands for (R38 item 4). -/
theorem cursor_bit {code : Wide} {n j : Nat} {s : State} (hn : n ≤ 64) (hj : j < n) (hc : CursorAt code n j s) :
    (s.code.toNat &&& s.mask.toNat ≠ 0) ↔ code.getLsbD (n - 1 - j) = true := by
  rw [CursorAt, if_pos hj] at hc
  rw [and_pow_ne_zero hc.1, BitVec.getLsbD, BitVec.getLsbD, hc.2]
  split_ifs with h
  · rw [Nat.testBit_div_two_pow, show (n - 1 - j) % 32 + 32 = n - 1 - j by omega]
  · rw [Nat.testBit_mod_two_pow, show (n - 1 - j) % 32 = n - 1 - j by omega]
    simp [show n - 1 - j < 32 by omega]

/-- The mask is never 0 at the start of a tick (R152 e). -/
theorem cursor_mask_ne {code : Wide} {n j : Nat} {s : State} (hc : CursorAt code n j s) : s.mask ≠ 0#32 := by
  intro e
  unfold CursorAt at hc
  rw [e] at hc
  by_cases hj : j < n
  · rw [if_pos hj] at hc
    have h1 : 0 = 2 ^ ((n - 1 - j) % 32) := hc.1
    have := Nat.two_pow_pos ((n - 1 - j) % 32); omega
  · rw [if_neg hj] at hc
    exact absurd hc.1 (by decide)

/-- Phase 0 moves the cursor to the next bit, carry-over included (R144, R146). -/
theorem pulse_cursor {code : Wide} {n j : Nat} {s t : State} (_hn : n ≤ 64) (hj : j < n) (hc : CursorAt code n j s)
   (hext : 32 < n → s.codeExt.toNat = code.toNat % 2 ^ 32)
   (hx : t.codeExt = s.codeExt)
   (hm : t.mask = if s.mask >>> 1 = 0#32 then 0x80000000#32 else s.mask >>> 1)
   (hcd : t.code = if s.mask >>> 1 = 0#32 then s.codeExt else s.code) : CursorAt code n (j+1) t := by
  rw [CursorAt, if_pos hj] at hc
  obtain ⟨h1, h2⟩ := hc
  have hz : s.mask >>> 1 = 0#32 ↔ (n - 1 - j) % 32 = 0 := by
    rw [shift_zero_iff, h1]
    constructor
    · intro h
      by_contra hne
      obtain ⟨k, hk⟩ := Nat.exists_eq_succ_of_ne_zero hne
      rw [hk, Nat.pow_succ] at h
      have := Nat.two_pow_pos k; omega
    · intro h; rw [h]; rfl
  unfold CursorAt
  by_cases hb : (n - 1 - j) % 32 = 0
  · rw [if_pos (hz.2 hb)] at hm hcd
    split_ifs with h3 h4
    · omega
    · refine ⟨by rw [hm, show (n - 1 - (j+1)) % 32 = 31 by omega]; rfl, ?_⟩
      rw [hcd]; exact hext (by omega)
    · exact ⟨by rw [hm]; rfl, by rw [hcd, hx]⟩
  · have hne : ¬ s.mask >>> 1 = 0#32 := fun h => hb (hz.1 h)
    rw [if_neg hne] at hm hcd
    rw [if_pos (show j + 1 < n by omega)]
    refine ⟨?_, ?_⟩
    · rw [hm, BitVec.toNat_ushiftRight, h1, Nat.shiftRight_eq_div_pow, show (n - 1 - j) % 32 = (n - 1 - (j+1)) % 32 + 1 by omega, Nat.pow_succ]
      omega
    · rw [hcd, h2]
      split_ifs <;> first | rfl | omega

/-- The cursor depends on the mask and the two words only. -/
theorem cursor_congr {code : Wide} {n j : Nat} {s t : State} (hc : CursorAt code n j s) (h1 : t.mask = s.mask) (h2 : t.code = s.code) (h3 : t.codeExt = s.codeExt) : CursorAt code n j t := by
  unfold CursorAt at *; rw [h1, h2, h3]; exact hc

/-- `POS` never wraps in a job (R27). -/
theorem job_pos_bounds {code : Wide} {n : Nat} {s : State} (hj : JobAt code n s) : s.pos.toNat + 1 < 256 := by
  have := hj.position; have := hj.width; omega

/-- During a job both lines are in output mode (R38 item 5). -/
theorem lines_not_float {code : Wide} {n : Nat} {s : State} (h : LinesAt code n s) : s.ld0 ≠ .float ∧ s.ld1 ≠ .float := by
  unfold LinesAt at h
  split_ifs at h <;> simp [h.1, h.2]

/-- The increment in a job (R150). -/
theorem pos_succ_toNat {code : Wide} {n : Nat} {s : State} (hj : JobAt code n s) : (s.pos + 1#8).toNat = s.pos.toNat + 1 := by
  have := job_pos_bounds hj
  simp; omega

/-- During a job at most one line is low (R38 item 5). -/
theorem not_both_low_of_lines {code : Wide} {n : Nat} {s : State} (h : LinesAt code n s) : ¬ BothLow s := by
  unfold LinesAt at h; unfold BothLow
  split_ifs at h <;> simp [h.1, h.2]

/-- A job depends on the registers and the lines only. -/
theorem job_congr {code : Wide} {n : Nat} {s t : State} (hj : JobAt code n s) (h1 : t.txState = s.txState) (h2 : t.pos = s.pos) (h3 : t.remain = s.remain) (h4 : t.codeExt = s.codeExt) (h5 : t.mask = s.mask) (h6 : t.code = s.code) (h7 : t.ld0 = s.ld0) (h8 : t.ld1 = s.ld1) : JobAt code n t := by
  refine ⟨h1 ▸ hj.sending, hj.width, h2 ▸ hj.position, ?_, ?_, ?_, ?_⟩
  · rw [h3, h2]; exact hj.remaining
  · rw [h4]; exact hj.extension
  · rw [h2]; exact cursor_congr hj.cursor h5 h6 h4
  · rw [h2]; intro h; have := hj.lines h; unfold LinesAt at *; rw [h2, h7, h8]; exact this

end Sys2Proof.Machine
end

