-- ==== Sys2Proof/Laws/PerInstr.lean ====
section
/-! SUPPORT. The family `Header`: the low byte of a request's word is the match value of its row in opcode_table.json, reserved
bits zero (30_encoding.md R72, R75). -/

namespace Sys2Proof.Laws.Header

/-- The `match` column of opcode_table.json. -/
def matchByte : OpCode → BitVec 8
  | .encodeRaw => 0x01#8
  | .addParity => 0x02#8
  | .code      => 0x03#8
  | .send      => 0x04#8
  | .tick      => 0x05#8

/-- The word of a request carries its row's match value in its low byte. -/
def Statement (i : Instr) : Prop := (encode i).extractLsb' 0 8 = matchByte i.opCode

/-- The low byte of an encoded request is its operation code with five zero bits above it. -/
theorem low_byte (v : Wide) (n : Byte) (op : BitVec 3) :
    ((v ++ n ++ 0b00000#5 ++ op).cast (by decide) : Request).extractLsb' 0 8 = (0b00000#5 ++ op : BitVec 8) := by
  apply BitVec.eq_of_getLsbD_eq
  intro j hj
  simp only [BitVec.getLsbD_extractLsb', BitVec.getLsbD_cast, BitVec.getLsbD_append]
  by_cases h : j < 3
  · simp [h, hj]
  · simp [h, hj, show j - 3 < 5 by omega]

/-- Five zero bits above an operation code are its row's match value. -/
theorem header_byte (k : OpCode) : (0b00000#5 ++ opBits k : BitVec 8) = matchByte k := by
  cases k <;> decide

/-- The statement, from the operation alone. -/
theorem of_opCode (i : Instr) : Statement i :=
  (low_byte (v64Of i) (n8Of i) (opBits i.opCode)).trans (header_byte i.opCode)

theorem encodeRaw (facility : Byte) (id : Wide) : Statement (.encodeRaw facility id) := of_opCode _

theorem addParity (rawCode : Wide) : Statement (.addParity rawCode) := of_opCode _

theorem code (facility : Byte) (id : Wide) : Statement (.code facility id) := of_opCode _

theorem send (code : Wide) (bitCount : Byte) : Statement (.send code bitCount) := of_opCode _

theorem tick : Statement .tick := of_opCode _

end Sys2Proof.Laws.Header
end

