-- ==== Sys2Proof/Tests/Slice0.lean ====
section
/-! SUPPORT. Tests on single steps, their expected values taken from spec/ (the rule or the vector is named), and for every
statement with hypotheses a witness that meets them. -/

namespace Sys2Proof.Tests

open Sys2Proof.Machine Sys2Proof.Safety

/-! ## Helpers -/

/-- The next state of an outcome. -/
def nextOf : Result → Option State
  | .next s => some s
  | _       => none

/-- The fault of an outcome. -/
def faultOf : Result → Option Fault
  | .fault f => some f
  | _        => none

/-- The refusal of an outcome. -/
def refusedOf : Result → Option Refusal
  | .refused r => some r
  | _          => none

/-- The response of a completed request. -/
def answerOf (o : Result) : Option Response := (nextOf o).map State.response

/-- A block just built with width `B`. -/
def built (B : Nat) : State := { State.reset with config := { encBits := B } }

/-- A block with requests on its port. -/
def offered (ws : List Request) : State := { State.reset with port := ws }

/-- A block in the middle of a job, both lines released. -/
def sending (code mask : Word) (remain pos : Byte) : State :=
  { State.reset with
    txState := .sending
    code := code
    mask := mask
    remain := remain
    pos := pos
    ld0 := .outHigh
    ld1 := .outHigh }

/-- The block after `SEND 0x3, 4` from reset (vector S1). -/
def atStart : State :=
  { State.reset with txState := .sending, code := 0x3#32, mask := 0x8#32, remain := 4#8, response := .accepted true }

/-- The job of `SEND 0x3, 4` after its first tick (41_transmitter.md R153). -/
def afterFirst : State :=
  { sending 0x3#32 0x4#32 4#8 1#8 with ld0 := .outLow }

/-! ## Well-formedness -/

/-- 00_scope.md R10: odd, too small and too large widths are no legal build. -/
theorem test_wellFormed_refuses_builds :
    ¬ Config.Legal { encBits := 27 } ∧ ¬ Config.Legal { encBits := 8 } ∧ ¬ Config.Legal { encBits := 66 } ∧
      Config.Legal { encBits := 10 } ∧ Config.Legal { encBits := 64 } := by decide

/-- 00_scope.md R11: a width of 0 or above 64 breaks the contract of `SEND`. -/
theorem test_wellFormed_refuses_sends :
    (Instr.send 0x1#64 0#8).wellFormed = false ∧ (Instr.send 0x1#64 65#8).wellFormed = false ∧
      (Instr.send 0x1#64 1#8).wellFormed = true ∧ (Instr.send 0x1#64 64#8).wellFormed = true := by decide

/-! ## Decoding: words written out field by field, `v64 ++ n8 ++ rsv ++ op` (30_encoding.md R71, R72) -/

theorem test_decode_encodeRaw :
    decode (0x3039#64 ++ 0x7B#8 ++ 0b00000#5 ++ 0b001#3 : Request) = .ok (.encodeRaw 0x7B#8 0x3039#64) := by rfl

theorem test_decode_addParity :
    decode (0x7B3039#64 ++ 0x00#8 ++ 0b00000#5 ++ 0b010#3 : Request) = .ok (.addParity 0x7B3039#64) := by rfl

theorem test_decode_code :
    decode (0x3039#64 ++ 0x7B#8 ++ 0b00000#5 ++ 0b011#3 : Request) = .ok (.code 0x7B#8 0x3039#64) := by rfl

theorem test_decode_send :
    decode (0xAAAAAAAA55555555#64 ++ 0x40#8 ++ 0b00000#5 ++ 0b100#3 : Request) =
      .ok (.send 0xAAAAAAAA55555555#64 64#8) := by rfl

theorem test_decode_tick :
    decode (0x0#64 ++ 0x00#8 ++ 0b00000#5 ++ 0b101#3 : Request) = .ok .tick := by rfl

/-- Vectors W1 to W5. -/
theorem test_decode_refuses :
    decode 0x00000000000000000000#80 = .error (.reservedOp 0b000#3) ∧
      decode 0x00000000000000000006#80 = .error (.reservedOp 0b110#3) ∧
      decode 0x00000000000000000007#80 = .error (.reservedOp 0b111#3) ∧
      decode 0x0000000000000000000D#80 = .error (.reservedBits 0b00001#5) ∧
      decode 0x0000000000000000000E#80 = .error (.reservedOp 0b110#3) := ⟨rfl, rfl, rfl, rfl, rfl⟩

/-- Vector W6. -/
theorem test_decode_ignores_unused : decode 0x000000000000FFFFFF05#80 = .ok .tick := by rfl

/-- The table's five words, bits above them zero (opcode_table.json). -/
theorem test_decodeTableWord :
    decodeTableWord 8 0x01 = some (.encodeRaw 0#8 0#64) ∧ decodeTableWord 8 0x02 = some (.addParity 0#64) ∧
      decodeTableWord 8 0x03 = some (.code 0#8 0#64) ∧ decodeTableWord 8 0x04 = some (.send 0#64 0#8) ∧
      decodeTableWord 8 0x05 = some .tick ∧ decodeTableWord 8 0x00 = none := by decide

/-- The next step performs the word that is placed, and takes it off the port: `TICK` right after reset (vector K1). -/
theorem test_withFetchWord_tick : nextOf (step (State.reset.withFetchWord 8 0x05)) = some State.reset := by decide

/-! ## The Encoder -/

/-- Vector E5. -/
theorem test_encodeRaw_34 :
    answerOf (exec (.encodeRaw 0x12#8 0x345678#64) (built 34)) = some (.result 0x12345678#64) := by decide

/-- Vector E7. -/
theorem test_encodeRaw_64 :
    answerOf (exec (.encodeRaw 0xFF#8 0x3FFFFFFFFFFFFF#64) (built 64)) = some (.result 0x3FFFFFFFFFFFFFFF#64) := by
  decide

/-- Vector A5. -/
theorem test_addParity_64 :
    answerOf (exec (.addParity 0x4000000000000000#64) (built 64)) = some (.result 0x8000000000000001#64) := by decide

/-- Vector A6. -/
theorem test_addParity_12 : answerOf (exec (.addParity 0x3FF#64) (built 12)) = some (.result 0xFFE#64) := by decide

/-- Vector E4. -/
theorem test_code_26 : answerOf (exec (.code 0x7B#8 0x3039#64) (built 26)) = some (.result 0xF66073#64) := by decide

/-- Vector E9. -/
theorem test_code_out_of_range :
    answerOf (exec (.code 0x01#8 0x10000#64) (built 26)) = some (.result 0x2020001#64) := by decide

/-! ## The Transmitter -/

/-- Vector S6. -/
theorem test_send_40 :
    (nextOf (exec (.send 0x123456789A#64 40#8) State.reset)).map
        (fun t => (t.code, t.codeExt, t.mask, t.remain, t.response)) =
      some (0x12#32, 0x3456789A#32, 0x80#32, 40#8, .accepted true) := by decide

/-- Vectors S11 and S13: the busy check comes before the width check. -/
theorem test_send_checks :
    nextOf (exec (.send 0x1#64 0#8) atStart) = some { atStart with response := .accepted false } ∧
      faultOf (exec (.send 0x1#64 65#8) State.reset) = some (.badBitCount 65#8) := by decide

/-- The first tick of `SEND 0x3, 4` (41_transmitter.md R153). -/
theorem test_tick_first :
    (nextOf (exec .tick atStart)).map (fun t => (t.mask, t.pos, busLevel t .d0, busLevel t .d1, t.lineOps)) =
      some (0x4#32, 1#8, .low, .high, [⟨.d0, .asOutput⟩, ⟨.d1, .asOutput⟩, ⟨.d0, .driveLow⟩]) := by decide

/-- Vector K9: the terminal tick. -/
theorem test_tick_terminal :
    (nextOf (exec .tick (sending 0x3#32 0x80000000#32 1#8 13#8))).map
        (fun t => (t.txState, t.remain, t.pos, t.lineOps)) =
      some (.idle, 0#8, 13#8,
        [⟨.d0, .releaseHigh⟩, ⟨.d1, .releaseHigh⟩, ⟨.d0, .asInput⟩, ⟨.d1, .asInput⟩]) := by decide

/-! ## Witnesses: request words and the step -/

/-- A word of each request, the two with unused fields also with those fields not zero. -/
theorem test_witness_EncodeOfDecode :
    decode 0x00000000000030397B01#80 = .ok (.encodeRaw 0x7B#8 0x3039#64) ∧
      decode 0x00000000007B30390002#80 = .ok (.addParity 0x7B3039#64) ∧
      decode 0x00000000007B3039FF02#80 = .ok (.addParity 0x7B3039#64) ∧
      decode 0x00000000000030397B03#80 = .ok (.code 0x7B#8 0x3039#64) ∧
      decode 0x00000000000000030404#80 = .ok (.send 0x3#64 4#8) ∧
      decode 0x000000000000FFFFFF05#80 = .ok .tick := ⟨rfl, rfl, rfl, rfl, rfl, rfl⟩

/-- Two words of `TICK` and two of `ADD_PARITY` that differ in unused fields only. -/
theorem test_witness_UnusedFieldsIgnored :
    (0x000000000000FFFFFF05#80 : Request).toNat % 256 = (0x00000000000000000005#80 : Request).toNat % 256 ∧
      (0x000000000000FFFFFF05#80 : Request).toNat % 256 = 5 ∧
      (0x00000000007B3039FF02#80 : Request).toNat % 256 = (0x00000000007B30390002#80 : Request).toNat % 256 ∧
      (0x00000000007B3039FF02#80 : Request).toNat % 256 = 2 ∧
      (0x00000000007B3039FF02#80 : Request).toNat / 65536 =
        (0x00000000007B30390002#80 : Request).toNat / 65536 := by decide

/-- `TICK` waits on an unmarked, legally built block. -/
theorem test_witness_StepPerformsTheRequest :
    (offered [0x5#80]).mark = .clear ∧ (offered [0x5#80]).config.Legal ∧ (offered [0x5#80]).port = [0x5#80] ∧
      decode 0x5#80 = .ok .tick := ⟨rfl, by decide, rfl, rfl⟩

/-- Vectors W2, W4 and W6 as the step's outcome: each clause once. -/
theorem test_witness_ReservedRequestsRefused :
    (offered [0x6#80]).mark = .clear ∧ (offered [0x6#80]).config.Legal ∧
      refusedOf (step (offered [0x6#80])) = some (.reservedOp 0b110#3) ∧
      refusedOf (step (offered [0xD#80])) = some (.reservedBits 0b00001#5) ∧
      (nextOf (step (offered [0x000000000000FFFFFF05#80]))).isSome = true := by decide

/-- Builds just outside and just inside the legal range (30_encoding.md R77). -/
theorem test_witness_IllegalBuildsRefused :
    (built 8).mark = .clear ∧ refusedOf (step (built 8)) = some (.illegalEncBits 8) ∧
      refusedOf (step (built 27)) = some (.illegalEncBits 27) ∧
      refusedOf (step (built 66)) = some (.illegalEncBits 66) ∧
      refusedOf (step (built 10)) = none ∧ refusedOf (step (built 64)) = none := by decide

/-- The reset state has no request waiting. -/
theorem test_witness_StepWithoutRequest :
    State.reset.mark = .clear ∧ State.reset.config.Legal ∧ State.reset.port = [] := by decide

/-- A step that takes one of two requests. -/
theorem test_witness_StepTakesOneRequest :
    step (offered [0x5#80, 0x6#80]) = .next (offered [0x6#80]) := by rfl

/-- Vector W7. -/
theorem test_witness_FaultsAreFinal :
    step (offered [0x00000000000000010004#80]) = .fault (.badBitCount 0#8) := by rfl

/-! ## Witnesses: the Encoder -/

/-- The least and the largest build, for the statements that need a legal build only. -/
theorem test_witness_legal_builds : (built 10).config.Legal ∧ (built 64).config.Legal := by decide

/-- The largest id that fits, in the least and in the largest build. -/
theorem test_witness_EncodeRawPacksTheFields :
    (0x0#64 : Wide).toNat < 2 ^ ((built 10).config.encBits - 10) ∧
      (0x3FFFFFFFFFFFFF#64 : Wide).toNat < 2 ^ ((built 64).config.encBits - 10) := by decide

/-- Each premise inside the corner cases: (a) the least id at or above `2^(B-2)`, (b) a nonzero id at `B = 10`, (d) `B = 26`. -/
theorem test_witness_EncodeRawCornerCases :
    2 ^ ((built 26).config.encBits - 2) ≤ (0x1000000#64 : Wide).toNat ∧ (built 10).config.encBits = 10 ∧
      (1#64 : Wide) ≠ 0#64 ∧ (built 26).config.encBits = 26 := by decide

/-- The largest raw code that fits, in the least and in the largest build. -/
theorem test_witness_AddParityIsCorrect :
    (0xFF#64 : Wide).toNat < 2 ^ ((built 10).config.encBits - 2) ∧
      (0x3FFFFFFFFFFFFFFF#64 : Wide).toNat < 2 ^ ((built 64).config.encBits - 2) := by decide

/-- Each premise inside the corner cases: codes that differ in bit 63 only, or at or above `B-2` only; an odd group and an
even group of all ones. -/
theorem test_witness_AddParityCornerCases :
    (0x8000000000000000#64 : Wide).toNat % 2 ^ 63 = (0x0#64 : Wide).toNat % 2 ^ 63 ∧
      (0x1000003#64 : Wide).toNat % 2 ^ (26 - 2) = (0x3#64 : Wide).toNat % 2 ^ (26 - 2) ∧
      (∀ j < 26 / 2 - 1, (0xFFF#64 : Wide).getLsbD j = true) ∧
      (∀ j < 26 / 2 - 1, (0xFFF000#64 : Wide).getLsbD ((26 / 2 - 1) + j) = true) ∧
      (0xFFF000#64 : Wide).getLsbD (26 - 2) = false := by decide

/-- An Encoder request of each kind. -/
theorem test_witness_EncoderIsStateless :
    (Instr.encodeRaw 0#8 0#64).opCode = .encodeRaw ∧ (Instr.addParity 0#64).opCode = .addParity ∧
      (Instr.code 0#8 0#64).opCode = .code := by decide

/-! ## Witnesses: `SEND` -/

/-- Every clause at its boundary: busy; 0 and 65; 1, 32, 33 and 64 (vectors S2, S3, S5, S7, S10, S12, S13). -/
theorem test_witness_SendMeaning :
    atStart.txState ≠ .idle ∧ State.reset.txState = .idle ∧
      faultOf (exec (.send 0x1#64 0#8) State.reset) = some (.badBitCount 0#8) ∧
      ((nextOf (exec (.send 0x1#64 1#8) State.reset)).map fun t => (t.code, t.codeExt, t.mask)) =
        some (0x1#32, 0#32, 0x1#32) ∧
      ((nextOf (exec (.send 0xFFFFFFFF#64 32#8) State.reset)).map fun t => (t.code, t.codeExt, t.mask)) =
        some (0xFFFFFFFF#32, 0#32, 0x80000000#32) ∧
      ((nextOf (exec (.send 0x1#64 33#8) State.reset)).map fun t => (t.code, t.codeExt, t.mask)) =
        some (0#32, 0x1#32, 0x1#32) ∧
      ((nextOf (exec (.send 0xFFFFFFFFFFFFFFFF#64 64#8) State.reset)).map fun t => (t.code, t.codeExt, t.mask)) =
        some (0xFFFFFFFF#32, 0xFFFFFFFF#32, 0x80000000#32) := by decide

/-- An `IDLE` state and the least and largest width, for every statement about an accepted `SEND`. -/
theorem test_witness_accepted_send :
    State.reset.txState = .idle ∧ 1 ≤ (1#8 : Byte).toNat ∧ (64#8 : Byte).toNat ≤ 64 ∧
      exec (.send 0x3#64 4#8) State.reset = .next atStart := ⟨rfl, by decide, by decide, rfl⟩

/-! ## Witnesses: `TICK` -/

/-- Outside a job. -/
theorem test_witness_TickOutsideAJob : State.reset.txState ≠ .sending := by decide

/-- The first tick of a job. -/
theorem test_witness_FirstTickOfAJob : atStart.txState = .sending ∧ atStart.pos = 0#8 := by decide

/-- A later phase 0, with a 0 bit and with a 1 bit under the cursor, both lines in output mode. -/
theorem test_witness_PulseTick :
    (sending 0x3#32 0x4#32 3#8 4#8).txState = .sending ∧ (sending 0x3#32 0x4#32 3#8 4#8).pos.toNat % 4 = 0 ∧
      (sending 0x3#32 0x4#32 3#8 4#8).pos ≠ 0#8 ∧
      (0x3#32 : Word).toNat &&& (0x4#32 : Word).toNat = 0 ∧ (sending 0x3#32 0x4#32 3#8 4#8).ld0 ≠ .float ∧
      (0x3#32 : Word).toNat &&& (0x2#32 : Word).toNat ≠ 0 ∧ (sending 0x3#32 0x2#32 2#8 8#8).ld1 ≠ .float := by decide

/-- Phase 1 with two bits left. -/
theorem test_witness_ReleaseTick :
    (sending 0x3#32 0x1#32 2#8 9#8).txState = .sending ∧ (sending 0x3#32 0x1#32 2#8 9#8).pos.toNat % 4 = 1 ∧
      (sending 0x3#32 0x1#32 2#8 9#8).ld0 ≠ .float ∧ (sending 0x3#32 0x1#32 2#8 9#8).ld1 ≠ .float ∧
      2 ≤ (sending 0x3#32 0x1#32 2#8 9#8).remain.toNat := by decide

/-- Phase 1 with one bit left. -/
theorem test_witness_TerminalTick :
    (sending 0x3#32 0x80000000#32 1#8 13#8).txState = .sending ∧
      (sending 0x3#32 0x80000000#32 1#8 13#8).pos.toNat % 4 = 1 ∧
      (sending 0x3#32 0x80000000#32 1#8 13#8).ld0 ≠ .float ∧
      (sending 0x3#32 0x80000000#32 1#8 13#8).ld1 ≠ .float ∧
      (sending 0x3#32 0x80000000#32 1#8 13#8).remain = 1#8 := by decide

/-- Phases 2 and 3. -/
theorem test_witness_GapTick :
    (sending 0x3#32 0x4#32 3#8 2#8).txState = .sending ∧ 2 ≤ (sending 0x3#32 0x4#32 3#8 2#8).pos.toNat % 4 ∧
      2 ≤ (sending 0x3#32 0x4#32 3#8 3#8).pos.toNat % 4 := by decide

/-! ## Witnesses: jobs and runs -/

/-- The job of `SEND 0x3, 4` at its start. -/
theorem test_witness_job_start : JobAt 0x3#64 4 atStart where
  sending := rfl
  width := by decide
  position := by decide
  remaining := by decide
  extension := by decide
  cursor := by unfold CursorAt; decide
  lines := fun h => absurd h (by decide)

/-- The same job after its first tick (`MASK = 0x4`, D0 low). -/
theorem test_witness_StepKeepsTheJob : JobAt 0x3#64 4 afterFirst ∧ step afterFirst = .next afterFirst := by
  refine ⟨⟨rfl, by decide, by decide, by decide, by decide, ?_, fun _ => ?_⟩, rfl⟩
  · unfold CursorAt; decide
  · unfold LinesAt; decide

/-- The same job just before its terminal tick, and the step that ends it. -/
theorem test_witness_StepKeepsTheJob_end :
    JobAt 0x3#64 4 { sending 0x3#32 0x80000000#32 1#8 13#8 with code := 0#32, ld1 := .outLow, port := [0x5#80] } ∧
      ((nextOf (step { sending 0x3#32 0x80000000#32 1#8 13#8 with
          code := 0#32, ld1 := .outLow, port := [0x5#80] })).map State.txState) = some .idle := by
  refine ⟨⟨rfl, by decide, by decide, by decide, by decide, ?_, fun _ => ?_⟩, by decide⟩
  · unfold CursorAt; decide
  · unfold LinesAt; decide

/-- Good states: reset, and a job at its start with both lines floating. -/
theorem test_witness_GoodState : GoodState State.reset ∧ GoodState atStart :=
  ⟨⟨by decide, rfl, .inl ⟨rfl, rfl, rfl⟩⟩,
    ⟨by decide, rfl, .inr ⟨_, _, test_witness_job_start, fun _ => ⟨rfl, rfl⟩⟩⟩⟩

/-- A good state and its tick, for the statements about a next state. -/
theorem test_witness_good_tick :
    GoodState atStart ∧ (nextOf (exec .tick atStart)).isSome = true ∧
      (nextOf (step { atStart with port := [0x5#80] })).isSome = true :=
  ⟨test_witness_GoodState.2, by decide, by decide⟩

/-- A job that is still running one request after its `SEND`. -/
theorem test_witness_JobInvariantHolds :
    exec (.send 0x3#64 4#8) (offered [0x5#80]) = .next { atStart with port := [0x5#80] } ∧
      ∀ j ≤ 1, ∃ u, Host.Core.run core j { atStart with port := [0x5#80] } = .next u ∧ u.txState = .sending := by
  refine ⟨rfl, fun j hj => ?_⟩
  rcases Nat.le_one_iff_eq_zero_or_eq_one.1 hj with rfl | rfl
  · exact ⟨_, rfl, rfl⟩
  · exact ⟨_, rfl, rfl⟩

/-- A one-bit job, given its two ticks with a rejected `SEND` between them. -/
theorem test_witness_JobsRunToCompletion :
    State.reset.mark = .clear ∧ State.reset.config.Legal ∧ State.reset.txState = .idle ∧
      (∃ t, exec (.send 0x1#64 1#8) State.reset = .next t) ∧
      (∀ w ∈ ([0x5#80, 0x00000000000000010104#80, 0x5#80] : List Request).take 3, ∃ i, decode w = .ok i) ∧
      tickCount (([0x5#80, 0x00000000000000010104#80, 0x5#80] : List Request).take (3 - 1)) < jobTicks 1 := by
  refine ⟨rfl, by decide, rfl, ⟨_, rfl⟩, ?_, by decide⟩
  intro w hw
  simp only [List.take, List.mem_cons, List.not_mem_nil, or_false] at hw
  rcases hw with rfl | rfl | rfl
  · exact ⟨_, rfl⟩
  · exact ⟨_, rfl⟩
  · exact ⟨_, rfl⟩

/-- A tick inside a job, and the least and the largest width of a job that needs two words. -/
theorem test_witness_job_positions :
    0 < jobTicks 1 ∧ 253 < jobTicks 64 ∧ 32 < (33#8 : Byte).toNat ∧ (64#8 : Byte).toNat ≤ 64 := by decide

/-- A start state in `RECEIVING`, and a step that keeps it there (10_state.md R22). -/
theorem test_witness_ReceivingNeverEntered :
    exec .tick { State.reset with txState := .receiving } = .next { State.reset with txState := .receiving } := by rfl

/-- A floating line makes a `TICK` of a job misuse it (10_state.md R30, log 6): phase 0 with a 0 bit and with a 1 bit, and phase 1
with D0 and with D1 floating. -/
theorem test_witness_FaultCauses :
    faultOf (exec .tick { sending 0x3#32 0x4#32 3#8 4#8 with ld0 := .float }) = some (.lineMisuse .d0 .driveLow) ∧
      faultOf (exec .tick { sending 0x3#32 0x2#32 3#8 4#8 with ld1 := .float }) = some (.lineMisuse .d1 .driveLow) ∧
      faultOf (exec .tick { sending 0x3#32 0x2#32 3#8 5#8 with ld0 := .float }) = some (.lineMisuse .d0 .releaseHigh) ∧
      faultOf (exec .tick { sending 0x3#32 0x2#32 3#8 5#8 with ld1 := .float }) = some (.lineMisuse .d1 .releaseHigh) := by
  decide

/-- Every line and every driver value a line operation can meet. -/
theorem test_witness_LineOperations :
    State.reset.driver .d0 = .float ∧ (sending 0#32 1#32 1#8 4#8).driver .d1 ≠ .float ∧
      (nextOf (lineOp .d0 .asOutput State.reset)).isSome = true := by decide

/-- A legal build other than the default, with a request offered. -/
theorem test_witness_ResetIsGood : Config.Legal { encBits := 64 } := by decide

/-- Two `IDLE` states that differ in all five hidden registers. -/
theorem test_witness_HiddenRegistersUnobservable :
    SameVisible State.reset
        { State.reset with code := 1#32, codeExt := 2#32, mask := 3#32, remain := 4#8, pos := 5#8 } ∧
      State.reset.txState = .idle := ⟨⟨rfl, rfl, rfl, rfl, rfl, rfl, rfl, rfl⟩, rfl⟩

/-- The largest id that fits the default build, an `IDLE` state, and a width on each side of `ENC_BITS`. -/
theorem test_witness_frames :
    State.reset.config.Legal ∧ State.reset.txState = .idle ∧
      (0xFFFF#64 : Wide).toNat < 2 ^ (State.reset.config.encBits - 10) ∧ (26 : Nat) ≤ 64 := by decide

/-- A job with a `SEND` waiting and no tick, and the run that answers it. -/
theorem test_witness_StoppedTicksLeaveTheJob :
    (∀ w ∈ ({ atStart with port := [0x00000000000000010104#80] } : State).port, decode w ≠ .ok .tick) ∧
      ∃ t, Host.Core.run core 1 { atStart with port := [0x00000000000000010104#80] } = .next t := by
  refine ⟨?_, _, rfl⟩
  intro w hw
  cases List.mem_singleton.1 hw
  decide

/-- A request that changes each register its statement speaks of (10_state.md R29). -/
theorem test_witness_RegisterWriters :
    exec (.send 0x3#64 4#8) State.reset = .next atStart ∧ atStart.txState ≠ State.reset.txState ∧
      atStart.code ≠ State.reset.code ∧ atStart.mask ≠ State.reset.mask ∧ atStart.remain ≠ State.reset.remain :=
  ⟨rfl, by decide, by decide, by decide, by decide⟩

end Sys2Proof.Tests
end

namespace Sys2Proof.Machine

open Sys2Proof.Safety

/-! ## Everything a request can do -/

/-- A completed tick of phase 0: the line of the current bit low, the mask fallen, `POS` moved on (41_transmitter.md R143 to
R146, R150). -/
def afterPulse (s : State) : State :=
  { s.openStep.shiftMask.endTick with
    ld0 := if s.currentBit then (prepared s).ld0 else .outLow
    ld1 := if s.currentBit then .outLow else (prepared s).ld1
    lineOps := (prepared s).lineOps ++ [⟨lineFor s.currentBit, .driveLow⟩] }

/-- A completed tick of phase 1 with bits left to send (R147, R150). -/
def afterRelease (s : State) : State :=
  { s.openStep.endTick with
    ld0 := .outHigh
    ld1 := .outHigh
    remain := s.remain - 1#8
    lineOps := [⟨.d0, .releaseHigh⟩, ⟨.d1, .releaseHigh⟩] }

/-- A completed terminal tick (R149). -/
def afterTerminal (s : State) : State :=
  { s.openStep with
    txState := .idle
    ld0 := .float
    ld1 := .float
    remain := 0#8
    lineOps := [⟨.d0, .releaseHigh⟩, ⟨.d1, .releaseHigh⟩, ⟨.d0, .asInput⟩, ⟨.d1, .asInput⟩] }

/-- The first tick changes the lines and the list of line operations, no register (R143). -/
theorem prepared_eq (s : State) :
    prepared s =
      { s.openStep with ld0 := (prepared s).ld0, ld1 := (prepared s).ld1, lineOps := (prepared s).lineOps } := by
  unfold prepared
  split
  · simp [bothAfter_eq]
  · rfl

@[simp] theorem prepared_currentBit (s : State) : (prepared s).currentBit = s.currentBit := by
  rw [prepared_eq]; rfl

/-- What phase 0 does to the prepared lines, as one record. -/
theorem pulse_prepared (s : State) :
    (((prepared s).setDriver (lineFor s.currentBit) .outLow).logOp (lineFor s.currentBit) .driveLow).shiftMask.endTick =
      afterPulse s := by
  rw [prepared_eq s]
  cases hb : s.currentBit <;> ext1 <;> simp [afterPulse, hb, lineFor] <;> rfl

/-- What phase 1 does while bits are left, as one record. -/
theorem release_opened (s : State) : (bothAfter .releaseHigh s.openStep).countBit.endTick = afterRelease s := by
  ext1 <;> simp [afterRelease, bothAfter_eq, driverAfter] <;> rfl

/-- What phase 1 does on the last bit, as one record. -/
theorem terminal_opened {s : State} (h : s.remain = 1#8) :
    (bothAfter .asInput (bothAfter .releaseHigh s.openStep).countBit).toIdle = afterTerminal s := by
  ext1 <;> simp [afterTerminal, bothAfter_eq, driverAfter, h]

/-- A phase-0 tick whose line is in output mode once prepared completes. -/
theorem execTick_pulse {s : State} (h : s.txState = .sending) (hp : s.pos.toNat % 4 = 0)
    (hl : (prepared s).driver (lineFor s.currentBit) ≠ .float) : execTick s = .next (afterPulse s) := by
  rw [execTick_assert h hp]
  rcases assertPhase_cases (prepared s) with ⟨hf, -⟩ | ⟨-, ha⟩
  · rw [prepared_currentBit] at hf
    exact absurd hf hl
  · rw [ha, prepared_currentBit, pulse_prepared]

/-- A phase-1 tick on lines in output mode completes, on the last bit as the terminal tick. -/
theorem execTick_lines_out {s : State} (h : s.txState = .sending) (hp : s.pos.toNat % 4 = 1)
    (h0 : s.ld0 ≠ .float) (h1 : s.ld1 ≠ .float) :
    execTick s = .next (if s.remain = 1#8 then afterTerminal s else afterRelease s) := by
  rw [execTick_release h hp]
  rcases releasePhase_cases s.openStep with ⟨hf, -⟩ | ⟨-, hf, -⟩ | ⟨-, -, hr, ha⟩ | ⟨-, -, hr, ha⟩
  · exact absurd hf h0
  · exact absurd hf h1
  · rw [State.openStep_remain] at hr
    rw [ha, terminal_opened hr, if_pos hr]
  · rw [State.openStep_remain] at hr
    rw [ha, release_opened, if_neg hr]

/-- A tick is in phase 0, in phase 1 or in a gap phase (R142). -/
theorem phase_cases (s : State) : s.pos.toNat % 4 = 0 ∨ s.pos.toNat % 4 = 1 ∨ 2 ≤ s.pos.toNat % 4 := by omega

/-- Everything a `TICK` of a job can do that completes (R142 to R150). -/
theorem execTick_eq_next {s t : State} (h : s.txState = .sending) (ht : execTick s = .next t) :
    (s.pos.toNat % 4 = 0 ∧ t = afterPulse s) ∨
      (s.pos.toNat % 4 = 1 ∧ s.remain = 1#8 ∧ t = afterTerminal s) ∨
      (s.pos.toNat % 4 = 1 ∧ s.remain ≠ 1#8 ∧ t = afterRelease s) ∨
      (2 ≤ s.pos.toNat % 4 ∧ t = s.openStep.endTick) := by
  rcases phase_cases s with hp | hp | hp
  · rw [execTick_assert h hp] at ht
    rcases assertPhase_cases (prepared s) with ⟨-, ha⟩ | ⟨-, ha⟩
    · simp [ha] at ht
    · rw [ha, prepared_currentBit, pulse_prepared] at ht
      cases ht
      exact .inl ⟨hp, rfl⟩
  · rw [execTick_release h hp] at ht
    rcases releasePhase_cases s.openStep with ⟨-, ha⟩ | ⟨-, -, ha⟩ | ⟨-, -, hr, ha⟩ | ⟨-, -, hr, ha⟩
    · simp [ha] at ht
    · simp [ha] at ht
    · rw [State.openStep_remain] at hr
      rw [ha, terminal_opened hr] at ht
      cases ht
      exact .inr (.inl ⟨hp, hr, rfl⟩)
    · rw [State.openStep_remain] at hr
      rw [ha, release_opened] at ht
      cases ht
      exact .inr (.inr (.inl ⟨hp, hr, rfl⟩))
  · rw [execTick_gap h hp] at ht
    cases ht
    exact .inr (.inr (.inr ⟨hp, rfl⟩))

/-- Everything a request can do: it only answers; or it is a `SEND` in `IDLE`, which faults or latches a job; or it is a `TICK`
of a job (40_encoder.md R100; 41_transmitter.md R133 to R136, R141). -/
theorem exec_cases (i : Instr) (s : State) :
    (∃ r, exec i s = .next (s.openStep.respond r)) ∨
      (s.txState = .idle ∧ ∃ code n, i = .send code n ∧
        ((badCount n = true ∧ exec i s = .fault (.badBitCount n)) ∨
          (badCount n = false ∧ exec i s = .next ((s.openStep.latchJob code n).respond (.accepted true))))) ∨
      (s.txState = .sending ∧ i = .tick) := by
  cases i with
  | encodeRaw facility id => exact .inl ⟨_, rfl⟩
  | addParity rawCode => exact .inl ⟨_, rfl⟩
  | code facility id => exact .inl ⟨_, rfl⟩
  | send code n =>
    rcases execSend_cases code n s with ⟨-, h⟩ | ⟨hi, hb, h⟩ | ⟨hi, hb, h⟩
    · exact .inl ⟨_, h⟩
    · exact .inr (.inl ⟨hi, code, n, rfl, .inl ⟨hb, h⟩⟩)
    · exact .inr (.inl ⟨hi, code, n, rfl, .inr ⟨hb, h⟩⟩)
  | tick =>
    by_cases h : s.txState = .sending
    · exact .inr (.inr ⟨h, rfl⟩)
    · exact .inl ⟨.silent, execTick_outside h⟩

/-- Everything a request can do that completes. -/
theorem exec_eq_next {i : Instr} {s t : State} (h : exec i s = .next t) :
    (∃ r, t = s.openStep.respond r) ∨
      (s.txState = .idle ∧ ∃ code n, i = .send code n ∧ badCount n = false ∧
        t = (s.openStep.latchJob code n).respond (.accepted true)) ∨
      (s.txState = .sending ∧ i = .tick ∧ execTick s = .next t) := by
  rcases exec_cases i s with ⟨r, hr⟩ | ⟨hi, code, n, rfl, ⟨-, hf⟩ | ⟨hb, hn⟩⟩ | ⟨hs, rfl⟩
  · rw [hr] at h
    cases h
    exact .inl ⟨r, rfl⟩
  · simp [hf] at h
  · rw [hn] at h
    cases h
    exact .inr (.inl ⟨hi, code, n, rfl, hb, rfl⟩)
  · exact .inr (.inr ⟨hs, rfl, h⟩)

/-- No request touches the build, the waiting requests or the mark. -/
theorem exec_frame {i : Instr} {s t : State} (h : exec i s = .next t) :
    t.config = s.config ∧ t.port = s.port ∧ t.mark = s.mark := by
  rcases exec_eq_next h with ⟨r, rfl⟩ | ⟨-, code, n, -, -, rfl⟩ | ⟨hs, -, ht⟩
  · simp
  · simp
  · rcases execTick_eq_next hs ht with ⟨-, rfl⟩ | ⟨-, -, rfl⟩ | ⟨-, -, rfl⟩ | ⟨-, rfl⟩
    · simp [afterPulse]
    · simp [afterTerminal]
    · simp [afterRelease]
    · simp

/-- A request leaves `STATE` as it is, or moves it between `IDLE` and `SENDING` (10_state.md R22, R29). -/
theorem exec_txState {i : Instr} {s t : State} (h : exec i s = .next t) :
    t.txState = s.txState ∨ (s.txState = .idle ∧ t.txState = .sending) ∨
      (s.txState = .sending ∧ t.txState = .idle) := by
  rcases exec_eq_next h with ⟨r, rfl⟩ | ⟨hi, code, n, -, -, rfl⟩ | ⟨hs, -, ht⟩
  · exact .inl rfl
  · exact .inr (.inl ⟨hi, rfl⟩)
  · rcases execTick_eq_next hs ht with ⟨-, rfl⟩ | ⟨-, -, rfl⟩ | ⟨-, -, rfl⟩ | ⟨-, rfl⟩
    · exact .inl (by simp [afterPulse])
    · exact .inr (.inr ⟨hs, rfl⟩)
    · exact .inl (by simp [afterRelease])
    · exact .inl (by simp)

/-! ## Steps and runs -/

/-- What taking a request off the port keeps and every request keeps, every step keeps. -/
theorem step_keeps {P : State → Prop} (hport : ∀ s ws, P s → P { s with port := ws })
    (hexec : ∀ i s t, P s → exec i s = .next t → P t) {s t : State} (hs : P s) (h : step s = .next t) : P t := by
  obtain ⟨-, -, ⟨-, rfl⟩ | ⟨w, rest, i, -, -, hx⟩⟩ := step_eq_next h
  · exact hs
  · exact hexec i _ t (hport s rest hs) hx

/-- A step of an unmarked block faults only in the request it performs (60_exceptions.md R172). -/
theorem step_eq_fault {s : State} {f : Fault} (hm : s.mark = .clear) (h : step s = .fault f) :
    ∃ w rest i, s.port = w :: rest ∧ decode w = .ok i ∧ exec i { s with port := rest } = .fault f := by
  by_cases hc : s.config.Legal
  · cases hp : s.port with
    | nil => simp [step_of_empty_port hm hc hp] at h
    | cons w rest =>
      rw [step_of_request hm hc hp] at h
      cases hd : decode w with
      | error e => simp [hd] at h
      | ok i =>
        rw [hd] at h
        exact ⟨w, rest, i, rfl, hd, h⟩
  · simp [step_of_illegal hm hc] at h

/-- A run that faults does so in a step from a state that keeps what every step keeps. -/
theorem run_eq_fault {P : State → Prop} (hstep : ∀ s t, P s → step s = .next t → P t) {f : Fault} (k : Nat)
    (s : State) (hs : P s) (h : Host.Core.run core k s = .fault f) : ∃ u, P u ∧ step u = .fault f := by
  induction k generalizing s with
  | zero => cases h
  | succ k ih =>
    cases hst : step s with
    | next u => exact ih u (hstep s u hs hst) (by rwa [run_of_next hst] at h)
    | fault r =>
      rw [run_of_fault hst] at h
      cases h
      exact ⟨s, hs, hst⟩
    | refused r => rw [run_of_refused hst] at h; cases h

/-! ## The steps of a job -/

section Job

variable {code : Wide} {n : Nat} {s t : State}

/-- The lines a phase-0 tick of a job drives are released and in output mode, at the first tick too (R143). -/
theorem prepared_lines (hj : JobAt code n s) (hp : s.pos.toNat % 4 = 0) :
    (prepared s).ld0 = .outHigh ∧ (prepared s).ld1 = .outHigh := by
  by_cases h0 : s.pos = 0#8
  · simp [prepared, h0, bothAfter_eq, driverAfter]
  · have hpos : 0 < s.pos.toNat := by bv_omega
    have hl := hj.lines hpos
    rw [LinesAt, if_neg (by omega)] at hl
    simpa [prepared, h0] using hl

/-- The bit a phase-0 tick of a job sends (10_state.md R38 item 4). -/
theorem job_currentBit (hj : JobAt code n s) (hp : s.pos.toNat % 4 = 0) :
    s.currentBit = code.getLsbD (n - 1 - s.pos.toNat / 4) := by
  have hpos := hj.position
  obtain ⟨h1, h64⟩ := hj.width
  have hc := hj.cursor
  rw [show (s.pos.toNat + 3) / 4 = s.pos.toNat / 4 by omega] at hc
  rw [currentBit_eq, Bool.eq_iff_iff, decide_eq_true_iff]
  exact cursor_bit h64 (by omega) hc

/-- The carry-over test fails at the start of every tick of a job (41_transmitter.md R152 e). -/
theorem job_carryOver (hj : JobAt code n s) : s.openStep.carryOver = s.openStep :=
  if_neg (cursor_mask_ne hj.cursor)

/-- A pulse keeps the job (R144 to R146). -/
theorem jobAt_afterPulse (hj : JobAt code n s) (hp : s.pos.toNat % 4 = 0) : JobAt code n (afterPulse s) := by
  have hpos := hj.position
  obtain ⟨h1, h64⟩ := hj.width
  have hinc : (afterPulse s).pos.toNat = s.pos.toNat + 1 := pos_succ_toNat (s := s) hj
  obtain ⟨hl0, hl1⟩ := prepared_lines hj hp
  refine ⟨by simpa [afterPulse] using hj.sending, hj.width, by omega, ?_,
    by simpa [afterPulse] using hj.extension, ?_, ?_⟩
  · rw [hinc, show (s.pos.toNat + 1 + 2) / 4 = (s.pos.toNat + 2) / 4 by omega]
    simpa [afterPulse] using hj.remaining
  · rw [hinc, show (s.pos.toNat + 1 + 3) / 4 = (s.pos.toNat + 3) / 4 + 1 by omega]
    refine pulse_cursor h64 (by omega) hj.cursor hj.extension ?_ ?_ ?_
    · simp [afterPulse]
    · exact State.carryOver_mask _
    · exact State.carryOver_code _
  · intro _
    rw [LinesAt, hinc, if_pos (by omega), show (s.pos.toNat + 1) / 4 = s.pos.toNat / 4 by omega, ← job_currentBit hj hp]
    cases hb : s.currentBit <;> simp [afterPulse, hb, hl0, hl1]

/-- A tick that only moves `POS` on and leaves both lines released keeps the job, if it counts the bit in phase 1
(R147, R148). -/
theorem jobAt_of_released (hj : JobAt code n s) (hp : 1 ≤ s.pos.toNat % 4) (hlast : s.pos.toNat < 4 * (n - 1) + 1)
    (hsend : t.txState = s.txState) (hcode : t.code = s.code) (hext : t.codeExt = s.codeExt) (hmask : t.mask = s.mask)
    (hpos : t.pos = s.pos + 1#8) (hrem : t.remain.toNat = n - (s.pos.toNat + 3) / 4)
    (hl : t.ld0 = .outHigh ∧ t.ld1 = .outHigh) : JobAt code n t := by
  have hinc : t.pos.toNat = s.pos.toNat + 1 := by rw [hpos, pos_succ_toNat hj]
  refine ⟨hsend.trans hj.sending, hj.width, by omega, by rw [hrem, hinc], by rw [hext]; exact hj.extension, ?_, ?_⟩
  · rw [hinc, show (s.pos.toNat + 1 + 3) / 4 = (s.pos.toNat + 3) / 4 by omega]
    exact cursor_congr hj.cursor hmask hcode hext
  · intro _
    rw [LinesAt, if_neg (by omega)]
    exact hl

/-- A phase-1 tick with bits left keeps the job (R147). -/
theorem jobAt_afterRelease (hj : JobAt code n s) (hp : s.pos.toNat % 4 = 1) (hr : s.remain ≠ 1#8) :
    JobAt code n (afterRelease s) := by
  have hpos := hj.position
  have hrem := hj.remaining
  have hr' : s.remain.toNat ≠ 1 := fun e => hr (BitVec.eq_of_toNat_eq e)
  obtain ⟨h1, h64⟩ := hj.width
  have hc := job_carryOver hj
  refine jobAt_of_released hj (by omega) (by omega) ?_ ?_ ?_ ?_ rfl ?_ ⟨rfl, rfl⟩
  · simp [afterRelease]
  · simp [afterRelease, hc]
  · simp [afterRelease]
  · simp [afterRelease, hc]
  · show (s.remain - 1#8).toNat = _
    bv_omega

/-- A tick of phase 2 or 3 keeps the job (R148). -/
theorem jobAt_gap (hj : JobAt code n s) (hp : 2 ≤ s.pos.toNat % 4) : JobAt code n s.openStep.endTick := by
  have hpos := hj.position
  have hrem := hj.remaining
  have hl := hj.lines (by omega)
  rw [LinesAt, if_neg (by omega)] at hl
  have hc := job_carryOver hj
  refine jobAt_of_released hj (by omega) (by omega) ?_ ?_ ?_ ?_ rfl ?_ ?_
  · simp
  · simp [hc]
  · simp
  · simp [hc]
  · rw [State.endTick_remain, State.openStep_remain, hrem]
    omega
  · simpa using hl

/-- The place of the terminal tick: one bit is left in phase 1 exactly there (R149, R155). -/
theorem job_last_pos (hj : JobAt code n s) (hp : s.pos.toNat % 4 = 1) (hr : s.remain = 1#8) :
    s.pos.toNat = 4 * (n - 1) + 1 := by
  have hpos := hj.position
  have hrem := hj.remaining
  rw [hr, show (1#8 : Byte).toNat = 1 from rfl] at hrem
  omega

/-- The terminal tick ends the job in the state R39 gives. -/
theorem jobDone_afterTerminal (hj : JobAt code n s) (hp : s.pos.toNat % 4 = 1) (hr : s.remain = 1#8) :
    JobDone n (afterTerminal s) := by
  have hlast := job_last_pos hj hp hr
  obtain ⟨h1, -⟩ := hj.width
  have hc := hj.cursor
  rw [CursorAt, if_neg (by omega)] at hc
  obtain ⟨hmask, hcode⟩ := hc
  exact ⟨rfl, rfl, hlast, BitVec.eq_of_toNat_eq hmask, hcode, rfl, rfl⟩

/-- A `TICK` of a job completes: no line it drives floats (41_transmitter.md R151, R157). -/
theorem execTick_of_job (hj : JobAt code n s) : ∃ t, execTick s = .next t := by
  rcases phase_cases s with hp | hp | hp
  · obtain ⟨hl0, hl1⟩ := prepared_lines hj hp
    refine ⟨_, execTick_pulse hj.sending hp ?_⟩
    cases s.currentBit <;> simp [lineFor, hl0, hl1]
  · obtain ⟨h0, h1⟩ := lines_not_float (hj.lines (by omega))
    exact ⟨_, execTick_lines_out hj.sending hp h0 h1⟩
  · exact ⟨_, execTick_gap hj.sending hp⟩

/-- A `TICK` moves its job on by one place, or ends it at its last one (10_state.md R38, R39). -/
theorem job_tick (hj : JobAt code n s) (ht : execTick s = .next t) :
    (JobAt code n t ∧ t.pos.toNat = s.pos.toNat + 1) ∨
      (JobDone n t ∧ s.pos.toNat = 4 * (n - 1) + 1 ∧ t.codeExt = s.codeExt) := by
  have hinc := pos_succ_toNat hj
  rcases execTick_eq_next hj.sending ht with ⟨hp, rfl⟩ | ⟨hp, hr, rfl⟩ | ⟨hp, hr, rfl⟩ | ⟨hp, rfl⟩
  · exact .inl ⟨jobAt_afterPulse hj hp, hinc⟩
  · exact .inr ⟨jobDone_afterTerminal hj hp hr, job_last_pos hj hp hr, rfl⟩
  · exact .inl ⟨jobAt_afterRelease hj hp hr, hinc⟩
  · exact .inl ⟨jobAt_gap hj hp, hinc⟩

/-- A job does not depend on the outputs. -/
theorem jobAt_answer (hj : JobAt code n s) (r : Response) : JobAt code n (s.openStep.respond r) :=
  job_congr hj rfl rfl rfl rfl rfl rfl rfl rfl

/-- A job does not depend on the waiting requests. -/
theorem jobAt_port (hj : JobAt code n s) (ws : List Request) : JobAt code n { s with port := ws } :=
  job_congr hj rfl rfl rfl rfl rfl rfl rfl rfl

/-- Every request keeps the job it finds at its exact place or moves it on by one, or ends it at its last place. -/
theorem job_exec {i : Instr} (hj : JobAt code n s) (h : exec i s = .next t) :
    (JobAt code n t ∧ (t.pos = s.pos ∨ t.pos.toNat = s.pos.toNat + 1)) ∨
      (JobDone n t ∧ s.pos.toNat = 4 * (n - 1) + 1 ∧ t.codeExt = s.codeExt) := by
  rcases exec_eq_next h with ⟨r, rfl⟩ | ⟨hi, -⟩ | ⟨-, -, ht⟩
  · exact .inl ⟨jobAt_answer hj r, .inl rfl⟩
  · simp [hj.sending] at hi
  · exact (job_tick hj ht).imp_left fun ⟨hjt, hp⟩ => ⟨hjt, .inr hp⟩

/-- Every step keeps the job it finds at its exact place or moves it on by one, or ends it at its last place. -/
theorem job_step (hj : JobAt code n s) (h : step s = .next t) :
    (JobAt code n t ∧ (t.pos = s.pos ∨ t.pos.toNat = s.pos.toNat + 1)) ∨
      (JobDone n t ∧ s.pos.toNat = 4 * (n - 1) + 1 ∧ t.codeExt = s.codeExt) := by
  obtain ⟨-, -, ⟨-, rfl⟩ | ⟨w, rest, i, -, -, hx⟩⟩ := step_eq_next h
  · exact .inl ⟨hj, .inl rfl⟩
  · exact job_exec (s := { s with port := rest }) (jobAt_port hj rest) hx

/-- A run that stays in `SENDING` stays in its job. -/
theorem job_run (hj : JobAt code n s) (k : Nat)
    (hrun : ∀ j ≤ k, ∃ u, Host.Core.run core j s = .next u ∧ u.txState = .sending) :
    ∃ u, Host.Core.run core k s = .next u ∧ JobAt code n u := by
  induction k generalizing s with
  | zero => exact ⟨s, rfl, hj⟩
  | succ k ih =>
    cases hst : step s with
    | next u =>
      have hrun' : ∀ j ≤ k, ∃ v, Host.Core.run core j u = .next v ∧ v.txState = .sending := fun j hle => by
        simpa [run_of_next hst] using hrun (j + 1) (by omega)
      obtain ⟨v, hv, hsend⟩ := hrun' 0 (by omega)
      cases hv
      rcases job_step hj hst with ⟨hju, -⟩ | ⟨hdone, -⟩
      · rw [run_of_next hst]
        exact ih hju hrun'
      · simp [hdone.idle] at hsend
    | fault r => simpa [run_of_fault hst] using hrun (k + 1) le_rfl
    | refused r => simpa [run_of_refused hst] using hrun (k + 1) le_rfl

end Job

/-- The state an accepted `SEND` leaves is the start of its job (41_transmitter.md R135). -/
theorem jobAt_latchJob (s : State) (code : Wide) {n : Byte} (hn : badCount n = false) :
    JobAt code n.toNat ((s.openStep.latchJob code n).respond (.accepted true)) := by
  have hwidth : 1 ≤ n.toNat ∧ n.toNat ≤ 64 := by
    have := mt (badCount_iff n).2 (by simp [hn])
    omega
  refine ⟨rfl, hwidth, Nat.zero_le _, by simp, ?_, ?_, fun h => absurd h (lt_irrefl 0)⟩
  · intro hw
    simp [(isWide_iff n).2 hw, lowWord_toNat]
  · rw [show (((s.openStep.latchJob code n).respond (.accepted true)).pos.toNat + 3) / 4 = 0 by simp,
      CursorAt, if_pos (by omega)]
    refine ⟨firstMask_toNat hwidth.1 hwidth.2, (firstWord_toNat code n).trans ?_⟩
    congr 1
    exact propext (by omega)

/-- A `SEND` that completes in `IDLE` starts its job. -/
theorem jobAt_of_send {code : Wide} {n : Byte} {s t : State} (hidle : s.txState = .idle)
    (h : exec (.send code n) s = .next t) : JobAt code n.toNat t := by
  rcases execSend_cases code n s with ⟨hbusy, -⟩ | ⟨-, -, hf⟩ | ⟨-, hb, hn⟩
  · exact absurd hidle hbusy
  · rw [show exec (.send code n) s = _ from hf] at h
    cases h
  · rw [show exec (.send code n) s = _ from hn] at h
    cases h
    exact jobAt_latchJob s code hb

/-- The exact place of a job gives the five items of 10_state.md R38. -/
theorem jobInvariant_of_jobAt {code : Wide} {n : Nat} {s : State} (hj : JobAt code n s) : JobInvariant code n s := by
  have hpos := hj.position
  have hrem := hj.remaining
  obtain ⟨h1, h64⟩ := hj.width
  refine ⟨hpos, ⟨hrem, by omega, by omega⟩, ?_, fun hp => ?_, fun hp => ?_⟩
  · have hc := hj.cursor
    by_cases hlt : (s.pos.toNat + 3) / 4 < n
    · rw [CursorAt, if_pos hlt] at hc
      exact ⟨_, Nat.mod_lt _ (by decide), hc.1⟩
    · rw [CursorAt, if_neg hlt] at hc
      exact ⟨31, by decide, hc.1⟩
  · rw [← job_currentBit hj hp]
    simp [State.currentBit]
  · obtain ⟨h0, h1⟩ := lines_not_float (hj.lines hp)
    exact ⟨h0, h1, not_both_low_of_lines (hj.lines hp)⟩

/-! ## The states a run from reset can be in -/

/-- The block right after construction is in a good state, whatever requests wait. -/
theorem goodState_reset {c : Config} (hc : c.Legal) (ws : List Request) :
    GoodState { State.reset with config := c, port := ws } :=
  ⟨hc, rfl, .inl ⟨rfl, rfl, rfl⟩⟩

theorem goodState_port (s : State) (ws : List Request) (hs : GoodState s) : GoodState { s with port := ws } := by
  obtain ⟨hc, hm, hidle | ⟨code, n, hj, hfloat⟩⟩ := hs
  · exact ⟨hc, hm, .inl hidle⟩
  · exact ⟨hc, hm, .inr ⟨code, n, jobAt_port hj ws, hfloat⟩⟩

/-- Every request keeps a good state good (10_state.md section 5). -/
theorem goodState_exec (i : Instr) (s t : State) (hs : GoodState s) (h : exec i s = .next t) : GoodState t := by
  obtain ⟨hconfig, -, hmark⟩ := exec_frame h
  obtain ⟨hc, hm, hs⟩ := hs
  refine ⟨hconfig ▸ hc, hmark.trans hm, ?_⟩
  rcases hs with ⟨hidle, hfloat⟩ | ⟨code, n, hj, hfloat⟩
  · rcases exec_eq_next h with ⟨r, rfl⟩ | ⟨-, code, n, -, hb, rfl⟩ | ⟨hsend, -⟩
    · exact .inl ⟨hidle, hfloat⟩
    · exact .inr ⟨code, n.toNat, jobAt_latchJob s code hb, fun _ => hfloat⟩
    · simp [hidle] at hsend
  · rcases exec_eq_next h with ⟨r, rfl⟩ | ⟨hidle, -⟩ | ⟨-, -, ht⟩
    · exact .inr ⟨code, n, jobAt_answer hj r, hfloat⟩
    · simp [hj.sending] at hidle
    · rcases job_tick hj ht with ⟨hjt, hp⟩ | ⟨hdone, -⟩
      · exact .inr ⟨code, n, hjt, fun h0 => by simp [h0] at hp⟩
      · exact .inl ⟨hdone.idle, hdone.floating⟩

/-- Every step keeps a good state good (10_state.md section 5). -/
theorem goodState_step (s t : State) (hs : GoodState s) (h : step s = .next t) : GoodState t :=
  step_keeps goodState_port goodState_exec hs h

theorem not_both_low_of_floating {s : State} (h : Floating s) : ¬ BothLow s := by
  simp [BothLow, h.1]

/-- R40 and R41 in every state a run from reset can be in. -/
theorem goodState_lines {s : State} (hs : GoodState s) : ¬ BothLow s ∧ (s.txState = .idle → Floating s) := by
  obtain ⟨-, -, ⟨-, hf⟩ | ⟨code, n, hj, hf⟩⟩ := hs
  · exact ⟨not_both_low_of_floating hf, fun _ => hf⟩
  · refine ⟨?_, fun h => by simp [hj.sending] at h⟩
    by_cases h0 : s.pos = 0#8
    · exact not_both_low_of_floating (hf h0)
    · exact not_both_low_of_lines (hj.lines (by bv_omega))

/-- In a good state a request faults with CV1 or not at all (60_exceptions.md R172; 41_transmitter.md R157). -/
theorem goodState_exec_fault {i : Instr} {s : State} {f : Fault} (hs : GoodState s) (h : exec i s = .fault f) :
    ∃ bitCount, f = .badBitCount bitCount := by
  rcases exec_cases i s with ⟨r, hr⟩ | ⟨-, code, n, rfl, ⟨-, hf⟩ | ⟨-, hn⟩⟩ | ⟨hsend, rfl⟩
  · simp [hr] at h
  · rw [hf] at h
    cases h
    exact ⟨n, rfl⟩
  · simp [hn] at h
  · obtain ⟨-, -, ⟨hidle, -⟩ | ⟨code, n, hj, -⟩⟩ := hs
    · simp [hidle] at hsend
    · obtain ⟨t, ht⟩ := execTick_of_job hj
      rw [show exec .tick s = .next t from ht] at h
      cases h

/-- In a good state a step faults with CV1 or not at all. -/
theorem goodState_step_fault {s : State} {f : Fault} (hs : GoodState s) (h : step s = .fault f) :
    ∃ bitCount, f = .badBitCount bitCount := by
  have ⟨_, hm, _⟩ := hs
  obtain ⟨w, rest, i, -, -, hx⟩ := step_eq_fault hm h
  exact goodState_exec_fault (goodState_port s rest hs) hx

/-! ## The values of `STATE` a run can show -/

/-- `STATE` is neither `RECEIVING` nor the unused value (10_state.md R22). -/
def IdleOrSending (s : State) : Prop := s.txState = .idle ∨ s.txState = .sending

theorem idleOrSending_exec (i : Instr) (s t : State) (hs : IdleOrSending s) (h : exec i s = .next t) :
    IdleOrSending t := by
  rcases exec_txState h with heq | ⟨-, hsend⟩ | ⟨-, hidle⟩
  · rwa [IdleOrSending, heq]
  · exact .inr hsend
  · exact .inl hidle

theorem idleOrSending_step (s t : State) (hs : IdleOrSending s) (h : step s = .next t) : IdleOrSending t :=
  step_keeps (fun _ _ hs => hs) idleOrSending_exec hs h

/-- Outside `IDLE` every `SEND` is rejected, whatever its operands (41_transmitter.md R133). -/
theorem execSend_busy {s : State} (h : s.txState ≠ .idle) (code : Wide) (n : Byte) :
    execSend code n s = .next (s.openStep.respond (.accepted false)) :=
  if_pos h

/-! ## The statements of 10_state.md -/

/-- Settles O36: `exec_txState` says how `STATE` moves, and a run starts in `IDLE`. -/
theorem receivingNeverEntered : Obligations.ReceivingNeverEntered := by
  refine ⟨fun i s t h ht => ?_, fun c ws k t h => ?_, fun s code bitCount hs => ⟨?_, ?_⟩⟩
  · rcases exec_txState h with heq | ⟨-, hsend⟩ | ⟨-, hidle⟩
    · exact heq
    · simp [hsend] at ht
    · simp [hidle] at ht
  · exact run_induct idleOrSending_step k _ (.inl rfl) t h
  · exact execSend_busy (by rcases hs with hs | hs <;> simp [hs]) code bitCount
  · exact execTick_outside (by rcases hs with hs | hs <;> simp [hs])

/-- Settles O41: in a legal build every state of a run from reset is good; an illegal build performs no request. -/
theorem linesAreSafe : Obligations.LinesAreSafe := by
  intro c ws k
  by_cases hc : c.Legal
  · have hreset := goodState_reset hc ws
    split
    next t h => exact goodState_lines (run_induct goodState_step k _ hreset t h)
    next f h =>
      obtain ⟨u, hu, hst⟩ := run_eq_fault goodState_step k _ hreset h
      exact goodState_step_fault hu hst
    next => trivial
  · cases k with
    | zero => exact ⟨not_both_low_of_floating ⟨rfl, rfl⟩, fun _ => ⟨rfl, rfl⟩⟩
    | succ k => rw [run_of_refused (step_of_illegal rfl hc)]; trivial

/-- Settles O42: the run stays at the exact place of the job that the `SEND` latched. -/
theorem jobInvariantHolds : Obligations.JobInvariantHolds := by
  intro code bitCount s t k hidle h1 h64 hsend hrun
  have hjob : JobAt code bitCount.toNat t := jobAt_of_send hidle hsend
  obtain ⟨u, hu, hju⟩ := job_run hjob k hrun
  exact ⟨u, hu, jobInvariant_of_jobAt hju⟩

end Sys2Proof.Machine

namespace Sys2Proof

/-! ## The decoder by the fields of the word -/

/-- `op` as the low three bits of the word's value (30_encoding.md R71). -/
theorem opField_eq (w : Request) : opField w = BitVec.ofNat 3 (w.toNat % 8) := by
  rw [← opField_toNat, BitVec.ofNat_toNat, BitVec.setWidth_eq]

/-- `rsv` as the five bits of the word's value above `op` (R71). -/
theorem rsvField_eq (w : Request) : rsvField w = BitVec.ofNat 5 (w.toNat / 8 % 32) := by
  rw [← rsvField_toNat, BitVec.ofNat_toNat, BitVec.setWidth_eq]

theorem rsvField_eq_zero_iff (w : Request) : rsvField w = 0#5 ↔ w.toNat / 8 % 32 = 0 := by
  rw [← BitVec.toNat_inj, rsvField_toNat]
  rfl

/-- R72's table by the value of `op` in the word. -/
theorem opCodeOf_opField (w : Request) : opCodeOf (opField w) =
    if w.toNat % 8 = 0 ∨ w.toNat % 8 = 6 ∨ w.toNat % 8 = 7 then none
    else if w.toNat % 8 = 1 then some .encodeRaw else if w.toNat % 8 = 2 then some .addParity
    else if w.toNat % 8 = 3 then some .code else if w.toNat % 8 = 4 then some .send else some .tick := by
  rw [opCodeOf_eq, opField_toNat]

/-- A reserved `op` is refused whatever `rsv` holds (R76, R78). -/
theorem decode_of_op_reserved {w : Request} (h : opCodeOf (opField w) = none) :
    decode w = .error (.reservedOp (opField w)) := by
  simp only [decode, h]

/-- An allocated `op` is refused when `rsv` is not zero (R75, R78). -/
theorem decode_of_rsv_ne_zero {w : Request} {k : OpCode} (h : opCodeOf (opField w) = some k)
    (hr : rsvField w ≠ 0#5) : decode w = .error (.reservedBits (rsvField w)) := by
  simp only [decode, h, if_neg hr]

/-- An allocated `op` with `rsv` zero selects its request (R73, R78). -/
theorem decode_of_op {w : Request} {k : OpCode} (h : opCodeOf (opField w) = some k) (hr : rsvField w = 0#5) :
    decode w = .ok (operandsOf k (n8Field w) (v64Field w)) := by
  simp only [decode, h, if_pos hr]

/-- Decoding gives an encoded request back (R71 to R73). -/
theorem decode_encode (i : Instr) : decode (encode i) = .ok i := by
  have hop : opCodeOf (opField (encode i)) = some i.opCode := by rw [opField_encode, opCodeOf_opBits]
  rw [decode_of_op hop (rsvField_encode i), n8Field_encode, v64Field_encode, operandsOf_fields]

/-- Settles O3: R72's table says which of the three outcomes of the decoder the word has. -/
theorem decodeByTheAlgorithm : Obligations.DecodeByTheAlgorithm := by
  intro w
  have hk := opCodeOf_opField w
  dsimp only
  by_cases hres : w.toNat % 8 = 0 ∨ w.toNat % 8 = 6 ∨ w.toNat % 8 = 7
  · rw [if_pos hres] at hk ⊢
    rw [decode_of_op_reserved hk, opField_eq]
  rw [if_neg hres] at hk ⊢
  by_cases hrsv : w.toNat / 8 % 32 = 0
  · have hzero : rsvField w = 0#5 := (rsvField_eq_zero_iff w).2 hrsv
    rw [if_neg (not_not.2 hrsv), ← n8Field_eq, ← v64Field_eq]
    split_ifs at hk ⊢ <;> exact decode_of_op hk hzero
  · obtain ⟨k, hsome⟩ : ∃ k, opCodeOf (opField w) = some k := by
      rw [hk]
      split_ifs <;> exact ⟨_, rfl⟩
    rw [if_pos hrsv, decode_of_rsv_ne_zero hsome (mt (rsvField_eq_zero_iff w).1 hrsv), rsvField_eq]

/-- The word of a `TICK` by its low byte (R72, R74). -/
theorem decode_of_tick_byte {w : Request} (h : w.toNat % 256 = 5) : decode w = .ok .tick := by
  have hop : opCodeOf (opField w) = some .tick := by
    rw [opCodeOf_opField, show w.toNat % 8 = 5 by omega]
    rfl
  exact decode_of_op hop ((rsvField_eq_zero_iff w).2 (by omega))

/-- The word of an `ADD_PARITY` by its low byte, with the operand in `v64` alone (R72, R74). -/
theorem decode_of_addParity_byte {w : Request} (h : w.toNat % 256 = 2) :
    decode w = .ok (.addParity (BitVec.ofNat 64 (w.toNat / 65536))) := by
  have hop : opCodeOf (opField w) = some .addParity := by
    rw [opCodeOf_opField, show w.toNat % 8 = 2 by omega]
    rfl
  rw [← v64Field_eq]
  exact decode_of_op hop ((rsvField_eq_zero_iff w).2 (by omega))

/-- Settles O5: the eight words are the encodings, and decoding gives an encoded request back. -/
theorem workedEncodings : Obligations.WorkedEncodings := by
  intro p hp
  have henc : encode p.1 = p.2 := by
    revert p
    decide
  exact ⟨henc, henc ▸ decode_encode p.1⟩

end Sys2Proof

namespace Sys2Proof.Machine

/-! ## What the step reads of a request, and what it refuses -/

/-- A step reads the word it performs through the decoder alone. -/
theorem step_congr_decode (s : State) {w v : Request} (rest : List Request) (h : decode w = decode v) :
    step { s with port := w :: rest } = step { s with port := v :: rest } := by
  cases hm : s.mark with
  | faulted f => rw [step_of_faulted rfl, step_of_faulted rfl]
  | refused r => rw [step_of_refused rfl, step_of_refused rfl]
  | clear =>
    -- `by exact` holds `hc` back until `rw` has found the state it is about
    by_cases hc : s.config.Legal
    · rw [step_of_request (w := w) rfl (by exact hc) rfl, step_of_request (w := v) rfl (by exact hc) rfl, h]
    · rw [step_of_illegal rfl (by exact hc), step_of_illegal rfl (by exact hc)]

/-- No decoded request is refused (60_exceptions.md R176). -/
theorem exec_ne_refused (i : Instr) (s : State) (r : Refusal) : exec i s ≠ .refused r := by
  rcases exec_cases i s with ⟨_, h⟩ | ⟨-, _, _, -, ⟨-, h⟩ | ⟨-, h⟩⟩ | ⟨hs, rfl⟩
  · simp [h]
  · simp [h]
  · simp [h]
  · rw [show exec .tick s = _ from execTick_sending hs]
    exact phaseAction_ne_refused _ r

/-- A step of an unmarked, legally built block is refused only by the decoder (30_encoding.md R76). -/
theorem step_eq_refused {s : State} {r : Refusal} (hm : s.mark = .clear) (hc : s.config.Legal)
    (h : step s = .refused r) : ∃ w rest e, s.port = w :: rest ∧ decode w = .error e ∧ r = refusalOf e := by
  cases hp : s.port with
  | nil => simp [step_of_empty_port hm hc hp] at h
  | cons w rest =>
    rw [step_of_request hm hc hp] at h
    cases hd : decode w with
    | ok i =>
      rw [hd] at h
      exact absurd h (exec_ne_refused i _ r)
    | error e =>
      rw [hd] at h
      cases h
      exact ⟨w, rest, e, rfl, hd, rfl⟩

/-- R10's range, denied as R77 denies it. -/
theorem not_legal_iff (c : Config) : ¬ c.Legal ↔ c.encBits % 2 = 1 ∨ c.encBits < 10 ∨ 64 < c.encBits := by
  unfold Config.Legal
  omega

/-! ## The statements of 30_encoding.md -/

/-- Settles O4: the two words decode to the same request. -/
theorem unusedFieldsIgnored : Obligations.UnusedFieldsIgnored := by
  intro s w v rest hlow hused
  refine step_congr_decode s rest ?_
  rcases hused with htick | ⟨hparity, hv64⟩
  · rw [decode_of_tick_byte htick, decode_of_tick_byte (hlow ▸ htick)]
  · rw [decode_of_addParity_byte hparity, decode_of_addParity_byte (hlow ▸ hparity), hv64]

/-- Settles O8: a legal build's step is refused only by the decoder, which never names `ENC_BITS`. -/
theorem illegalBuildsRefused : Obligations.IllegalBuildsRefused := by
  intro s hm
  rw [← not_legal_iff]
  refine ⟨step_of_illegal hm, fun h hc => ?_⟩
  obtain ⟨-, -, e, -, -, he⟩ := step_eq_refused hm hc h
  cases e <;> cases he

end Sys2Proof.Machine

namespace Sys2Proof.Machine

open Sys2Proof.Safety

/-! ## What the Encoder requests answer -/

/-- `ENCODE_RAW` answers the packed fields and writes nothing (40_encoder.md R100, R103). -/
theorem exec_encodeRaw (facility : Byte) (id : Wide) (s : State) : exec (.encodeRaw facility id) s =
    .next { s with response := .result (packRaw s.config.encBits facility id), lineOps := [] } := rfl

/-- `ADD_PARITY` answers the on-the-wire code and writes nothing (R100, R109). -/
theorem exec_addParity (raw : Wide) (s : State) : exec (.addParity raw) s =
    .next { s with response := .result (attachParity s.config.encBits raw), lineOps := [] } := rfl

/-- `CODE` answers the on-the-wire code of the packed fields and writes nothing (R100, R114). -/
theorem exec_code (facility : Byte) (id : Wide) (s : State) : exec (.code facility id) s =
    .next { s with
      response := .result (attachParity s.config.encBits (packRaw s.config.encBits facility id)), lineOps := [] } := rfl

/-! ## Bits shared by two words -/

/-- Words that agree modulo `2^k` agree in each of their low `k` bits. -/
theorem getLsbD_eq_of_mod_eq {v w : Wide} {k i : Nat} (h : v.toNat % 2 ^ k = w.toNat % 2 ^ k) (hi : i < k) :
    v.getLsbD i = w.getLsbD i := by
  have hbit := congrArg (Nat.testBit · i) h
  simpa [Nat.testBit_mod_two_pow, hi, BitVec.testBit_toNat] using hbit

/-- Words that agree modulo `2^k` have the same ones in a range below bit `k`. -/
theorem ones_eq_of_mod_eq {v w : Wide} {k lo n : Nat} (h : v.toNat % 2 ^ k = w.toNat % 2 ^ k) (hle : lo + n ≤ k) :
    ones v lo n = ones w lo n :=
  ones_congr fun i hi => getLsbD_eq_of_mod_eq h (by omega)

/-- A word below `2^k` has no bit at or above `k`. -/
theorem getLsbD_eq_false_of_lt {v : Wide} {k j : Nat} (h : v.toNat < 2 ^ k) (hj : k ≤ j) : v.getLsbD j = false := by
  rw [← BitVec.testBit_toNat]
  exact Nat.testBit_lt_two_pow (h.trans_le (Nat.pow_le_pow_right (by decide) hj))

/-! ## The fields of the raw code -/

section Packing

variable {c : Config} (h : c.Legal) (f : Byte) {id : Wide} (hid : id.toNat < 2 ^ (c.encBits - 10))

include h in
/-- The payload is the id field with the facility's 8 bits above it (R101). -/
theorem two_pow_payload : 2 ^ (c.encBits - 2) = 256 * 2 ^ (c.encBits - 10) := by
  obtain ⟨-, h10, -⟩ := h
  rw [show c.encBits - 2 = 8 + (c.encBits - 10) by omega, pow_add]
  rfl

include h hid

/-- For an id that fits, the raw code's OR is a sum (R104). -/
theorem packRaw_toNat_eq_add :
    (packRaw c.encBits f id).toNat = f.toNat * 2 ^ (c.encBits - 10) + id.toNat := by
  rw [packRaw_toNat h, ← Nat.shiftLeft_eq, Nat.shiftLeft_add_eq_or_of_lt hid]

theorem packRaw_facility : (packRaw c.encBits f id).toNat / 2 ^ (c.encBits - 10) = f.toNat := by
  rw [packRaw_toNat_eq_add h f hid, Nat.add_comm, Nat.add_mul_div_right _ _ (Nat.two_pow_pos _), Nat.div_eq_of_lt hid,
    Nat.zero_add]

theorem packRaw_id : (packRaw c.encBits f id).toNat % 2 ^ (c.encBits - 10) = id.toNat := by
  rw [packRaw_toNat_eq_add h f hid, Nat.add_comm, Nat.add_mul_mod_self_right, Nat.mod_eq_of_lt hid]

/-- For an id that fits, nothing lies above the payload (R120). -/
theorem packRaw_lt : (packRaw c.encBits f id).toNat < 2 ^ (c.encBits - 2) := by
  rw [two_pow_payload h, ← Nat.div_lt_iff_lt_mul (Nat.two_pow_pos _), packRaw_facility h f hid]
  exact f.isLt

end Packing

/-! ## The bits of the on-the-wire code -/

section Parity

variable {c : Config} (h : c.Legal) (raw : Wide)

include h

/-- Every bit of the on-the-wire code, its parity bits by a count of ones (R109). -/
theorem attachParity_getLsbD_ones {j : Nat} (hj : j < 64) : (attachParity c.encBits raw).getLsbD j =
    if j = 0 then decide (ones raw 0 (c.encBits / 2 - 1) % 2 = 0)
    else (raw.getLsbD (j - 1) ||
      (decide (j = c.encBits - 1) && decide (ones raw (c.encBits / 2 - 1) (c.encBits / 2 - 1) % 2 = 1))) := by
  rw [attachParity_getLsbD h raw hj, oddParity_eq, evenParity_eq]

/-- Bit 0 is the odd parity bit. -/
theorem attachParity_getLsbD_zero :
    (attachParity c.encBits raw).getLsbD 0 = decide (ones raw 0 (c.encBits / 2 - 1) % 2 = 0) := by
  rw [attachParity_getLsbD_ones h raw (by decide), if_pos rfl]

/-- Bit `B-1` is the even parity bit, with raw bit `B-2` ORed onto it (R111 a). -/
theorem attachParity_getLsbD_top : (attachParity c.encBits raw).getLsbD (c.encBits - 1) =
    (raw.getLsbD (c.encBits - 2) ||
      decide (ones raw (c.encBits / 2 - 1) (c.encBits / 2 - 1) % 2 = 1)) := by
  obtain ⟨-, h10, h64⟩ := id h
  rw [attachParity_getLsbD_ones h raw (by omega), if_neg (by omega), Nat.sub_sub]
  simp

/-- Every other bit is the raw bit below it. -/
theorem attachParity_getLsbD_succ {j : Nat} (hj : j ≤ 62) (hne : j ≠ c.encBits - 2) :
    (attachParity c.encBits raw).getLsbD (j + 1) = raw.getLsbD j := by
  have hb : j + 1 ≠ c.encBits - 1 := by
    obtain ⟨-, h10, -⟩ := h
    omega
  rw [attachParity_getLsbD_ones h raw (by omega), if_neg (by omega)]
  simp [hb]

/-- The payload survives the parity layout, for every raw code (R119). -/
theorem attachParity_payload :
    (attachParity c.encBits raw).toNat / 2 % 2 ^ (c.encBits - 2) = raw.toNat % 2 ^ (c.encBits - 2) := by
  apply Nat.eq_of_testBit_eq
  intro j
  rw [Nat.testBit_mod_two_pow, Nat.testBit_mod_two_pow, Nat.testBit_div_two, BitVec.testBit_toNat,
    BitVec.testBit_toNat]
  by_cases hj : j < c.encBits - 2
  · obtain ⟨-, -, h64⟩ := id h
    rw [attachParity_getLsbD_succ h raw (by omega) (by omega)]
  · simp [hj]

/-- The wire's odd group holds the ones of the raw code's low group. -/
theorem ones_attachParity_low :
    ones (attachParity c.encBits raw) 1 (c.encBits / 2 - 1) = ones raw 0 (c.encBits / 2 - 1) := by
  obtain ⟨-, -, h64⟩ := id h
  refine ones_congr fun i hi => ?_
  rw [Nat.add_comm 1, Nat.zero_add, attachParity_getLsbD_succ h raw (by omega) (by omega)]

/-- The wire's even group holds the ones of the raw code's high group. -/
theorem ones_attachParity_high : ones (attachParity c.encBits raw) (c.encBits / 2 - 1 + 1) (c.encBits / 2 - 1) =
    ones raw (c.encBits / 2 - 1) (c.encBits / 2 - 1) := by
  obtain ⟨-, -, h64⟩ := id h
  refine ones_congr fun i hi => ?_
  rw [Nat.add_right_comm, attachParity_getLsbD_succ h raw (by omega) (by omega)]

/-- The odd group and its parity bit hold an odd number of ones, for every raw code (R110). -/
theorem attachParity_odd_group : (ones (attachParity c.encBits raw) 1 (c.encBits / 2 - 1) +
    ((attachParity c.encBits raw).getLsbD 0).toNat) % 2 = 1 := by
  rw [ones_attachParity_low h, attachParity_getLsbD_zero h]
  rcases Nat.mod_two_eq_zero_or_one (ones raw 0 (c.encBits / 2 - 1)) with hm | hm <;> simp [hm, Nat.add_mod]

variable {raw}

/-- With nothing ORed onto it, bit `B-1` is the even parity bit alone. -/
theorem attachParity_getLsbD_top_of_clear (hclear : raw.getLsbD (c.encBits - 2) = false) :
    (attachParity c.encBits raw).getLsbD (c.encBits - 1) =
      decide (ones raw (c.encBits / 2 - 1) (c.encBits / 2 - 1) % 2 = 1) := by
  rw [attachParity_getLsbD_top h, hclear, Bool.false_or]

/-- The even group and its parity bit hold an even number of ones (R110). -/
theorem attachParity_even_group (hclear : raw.getLsbD (c.encBits - 2) = false) :
    (ones (attachParity c.encBits raw) (c.encBits / 2 - 1 + 1) (c.encBits / 2 - 1) +
      ((attachParity c.encBits raw).getLsbD (c.encBits - 1)).toNat) % 2 = 0 := by
  rw [ones_attachParity_high h, attachParity_getLsbD_top_of_clear h hclear]
  rcases Nat.mod_two_eq_zero_or_one (ones raw (c.encBits / 2 - 1) (c.encBits / 2 - 1)) with hm | hm <;>
    simp [hm, Nat.add_mod]

/-- A raw code that fits gives a code of `B` bits (R118). -/
theorem attachParity_lt (hraw : raw.toNat < 2 ^ (c.encBits - 2)) :
    (attachParity c.encBits raw).toNat < 2 ^ c.encBits := by
  apply Nat.lt_pow_two_of_testBit
  intro j hj
  rw [BitVec.testBit_toNat]
  by_cases h64 : j < 64
  · obtain ⟨-, h10, -⟩ := id h
    obtain ⟨k, rfl⟩ : ∃ k, j = k + 1 := ⟨j - 1, by omega⟩
    rw [attachParity_getLsbD_succ h raw (by omega) (by omega), getLsbD_eq_false_of_lt hraw (by omega)]
  · exact BitVec.getLsbD_of_ge _ _ (by omega)

/-- Raw bit 63 is lost (R109, R111 a). -/
theorem attachParity_eq_of_mod_eq {other : Wide} (heq : other.toNat % 2 ^ 63 = raw.toNat % 2 ^ 63) :
    attachParity c.encBits other = attachParity c.encBits raw := by
  obtain ⟨-, h10, h64⟩ := id h
  apply BitVec.eq_of_getLsbD_eq
  intro j hj
  rw [attachParity_getLsbD_ones h _ hj, attachParity_getLsbD_ones h _ hj,
    getLsbD_eq_of_mod_eq heq (show j - 1 < 63 by omega), ones_eq_of_mod_eq heq (by omega),
    ones_eq_of_mod_eq heq (by omega)]

end Parity

/-- A zero raw code has only its odd parity bit on the wire, at every width (R111 c). -/
theorem attachParity_zero {c : Config} (h : c.Legal) : attachParity c.encBits 0#64 = 1#64 := by
  have hones (lo n : Nat) : ones 0#64 lo n = 0 := by simp [ones]
  apply BitVec.eq_of_getLsbD_eq
  intro j hj
  rw [attachParity_getLsbD_ones h _ hj]
  simp [hones, hj]

/-! ## The statements of 40_encoder.md -/

/-- Settles O12: the answer is the packing, whose shift does not overflow. -/
theorem encodeRawAnswers : Obligations.EncodeRawAnswers := by
  intro s facility id hc
  exact ⟨_, exec_encodeRaw facility id s, packRaw_toNat hc facility id, facility_shift_lt hc facility⟩

/-- Settles O13: for an id that fits the OR is a sum, so division by the id field's size gives the fields back. -/
theorem encodeRawPacksTheFields : Obligations.EncodeRawPacksTheFields := by
  intro s facility id hc hid
  exact ⟨_, exec_encodeRaw facility id s, packRaw_toNat hc facility id, packRaw_toNat_eq_add hc facility hid,
    packRaw_facility hc facility hid, packRaw_id hc facility hid, packRaw_lt hc facility hid⟩

/-- Settles O15: both parity bits are counts of ones modulo 2. -/
theorem addParityAnswers : Obligations.AddParityAnswers := by
  intro s raw hc
  exact ⟨_, exec_addParity raw s, fun _ hj => attachParity_getLsbD_ones hc raw hj⟩

/-- Settles O16: a raw code that fits leaves bit `B-1` to the even parity bit alone. -/
theorem addParityIsCorrect : Obligations.AddParityIsCorrect := by
  intro s raw hc hraw B H
  have hclear : raw.getLsbD (s.config.encBits - 2) = false := getLsbD_eq_false_of_lt hraw le_rfl
  refine ⟨_, exec_addParity raw s, attachParity_lt hc hraw, ?_, fun j hj => ?_, ?_, ?_,
    attachParity_odd_group hc raw, attachParity_even_group hc hclear⟩
  · rw [attachParity_payload hc, Nat.mod_eq_of_lt hraw]
  · obtain ⟨-, h10, h64⟩ := id hc
    exact attachParity_getLsbD_succ hc raw (by omega) (by omega)
  · rw [attachParity_getLsbD_zero hc, decide_eq_true_iff]
  · rw [attachParity_getLsbD_top_of_clear hc hclear, decide_eq_true_iff]

/-- Settles O17: the payload survives; the spec's counterexample to the literal form is evaluated. -/
theorem shiftKeepsThePayload : Obligations.ShiftKeepsThePayload := by
  intro s raw hc
  refine ⟨_, exec_addParity raw s, attachParity_payload hc raw, ?_⟩
  rintro hB rfl
  rw [hB]
  decide

/-- Settles O18: each corner is read off the bits of the on-the-wire code. -/
theorem addParityCornerCases : Obligations.AddParityCornerCases := by
  intro s raw hc B H
  obtain ⟨heven, h10, h64⟩ := id hc
  refine ⟨_, exec_addParity raw s, attachParity_getLsbD_top hc raw, fun j hlo hhi => ?_, fun other heq => ?_,
    fun other heq => ?_, ?_, fun hall => ?_, fun hall hclear => ?_⟩
  · exact attachParity_getLsbD_succ hc raw hhi (by omega)
  · rw [exec_addParity, exec_addParity, attachParity_eq_of_mod_eq hc heq]
  · have hodd : ones other 0 H = ones raw 0 H := ones_eq_of_mod_eq heq (by omega)
    have hhigh : ones other H H = ones raw H H := ones_eq_of_mod_eq heq (by omega)
    refine ⟨hodd, hhigh, _, exec_addParity other s, ?_⟩
    rw [attachParity_getLsbD_zero hc, attachParity_getLsbD_zero hc, hodd]
  · rintro rfl
    exact attachParity_zero hc
  · rw [attachParity_getLsbD_zero hc, decide_eq_true_iff, ones_all fun j hj => by rw [Nat.zero_add, hall j hj]]
  · rw [attachParity_getLsbD_top_of_clear hc hclear, decide_eq_true_iff, ones_all hall]

/-- Settles O19: `CODE` answers what `ADD_PARITY` answers for the packing. -/
theorem codeComposesThePacking : Obligations.CodeComposesThePacking := by
  intro s facility id hc
  exact ⟨_, _, packRaw_toNat hc facility id, exec_encodeRaw facility id s, exec_addParity _ s,
    exec_code facility id s⟩

/-- Settles O20: the packing of an id that fits is the payload of a code with correct parity. -/
theorem codeLayout : Obligations.CodeLayout := by
  intro s facility id hc hid B H
  have hraw := packRaw_lt hc facility hid
  have hpay : (attachParity B (packRaw B facility id)).toNat / 2 % 2 ^ (B - 2) = (packRaw B facility id).toNat := by
    rw [attachParity_payload hc, Nat.mod_eq_of_lt hraw]
  rw [two_pow_payload hc] at hpay
  refine ⟨_, exec_code facility id s, attachParity_lt hc hraw, ?_, ?_,
    attachParity_even_group hc (getLsbD_eq_false_of_lt hraw le_rfl), attachParity_odd_group hc _⟩
  · have h10 : 10 ≤ B := hc.2.1
    rw [← packRaw_facility hc facility hid, ← hpay, Nat.mod_mul_left_div_self, Nat.div_div_eq_div_mul, ← pow_succ',
      show B - 10 + 1 = B - 9 by omega]
  · rw [← packRaw_id hc facility hid, ← hpay, Nat.mod_mul_left_mod]

/-- Settles O21: the answer is computed from the operands and `ENC_BITS` alone. -/
theorem encoderIsStateless : Obligations.EncoderIsStateless := by
  intro i B hi
  cases i with
  | encodeRaw facility id =>
    refine ⟨packRaw B facility id, ?_⟩
    rintro s rfl
    exact exec_encodeRaw facility id s
  | addParity raw =>
    refine ⟨attachParity B raw, ?_⟩
    rintro s rfl
    exact exec_addParity raw s
  | code facility id =>
    refine ⟨attachParity B (packRaw B facility id), ?_⟩
    rintro s rfl
    exact exec_code facility id s
  | send code n => simp [Instr.opCode] at hi
  | tick => simp [Instr.opCode] at hi

end Sys2Proof.Machine

namespace Sys2Proof.Machine

open Sys2Proof.Safety

/-! ## What `SEND` does in `IDLE` -/

theorem badCount_eq_false {n : Byte} (h1 : 1 ≤ n.toNat) (h64 : n.toNat ≤ 64) : badCount n = false := by
  rw [Bool.eq_false_iff, ne_eq, badCount_iff]
  omega

/-- In `IDLE` a width of 0 or above 64 is CV1 (41_transmitter.md R134). -/
theorem execSend_bad {s : State} (hidle : s.txState = .idle) (code : Wide) {n : Byte} (hn : badCount n = true) :
    execSend code n s = .fault (.badBitCount n) := by
  simp [execSend, hidle, hn]

/-- In `IDLE` a legal width latches the job (R135, R136). -/
theorem execSend_good {s : State} (hidle : s.txState = .idle) (code : Wide) {n : Byte} (hn : badCount n = false) :
    execSend code n s = .next ((s.openStep.latchJob code n).respond (.accepted true)) := by
  simp [execSend, hidle, hn]

/-- The latched job in arithmetic on the operands (R135). -/
theorem latchJob_eq (s : State) (code : Wide) {n : Byte} (h1 : 1 ≤ n.toNat) (h64 : n.toNat ≤ 64) :
    s.latchJob code n =
      { s with
        code := BitVec.ofNat 32 (if 32 < n.toNat then code.toNat / 2 ^ 32 else code.toNat)
        codeExt := if 32 < n.toNat then BitVec.ofNat 32 code.toNat else s.codeExt
        mask := BitVec.ofNat 32 (if 32 < n.toNat then 2 ^ (n.toNat - 33) else 2 ^ (n.toNat - 1))
        pos := 0#8
        remain := n
        txState := .sending } := by
  simp only [State.latchJob, firstWord_eq, lowWord_eq, firstMask_eq h1 h64, isWide_iff]

/-- A `SEND` with a legal width in `IDLE` starts its job, the extension word latched for a wide job only (R135, R136). -/
theorem exec_send_starts_job (code : Wide) {n : Byte} {s : State} (hidle : s.txState = .idle) (h1 : 1 ≤ n.toNat)
    (h64 : n.toNat ≤ 64) :
    ∃ t, exec (.send code n) s = .next t ∧ JobAt code n.toNat t ∧ t.pos = 0#8 ∧ t.response = .accepted true ∧
      t.codeExt = if 32 < n.toNat then BitVec.ofNat 32 code.toNat else s.codeExt := by
  have hn := badCount_eq_false h1 h64
  exact ⟨_, execSend_good hidle code hn, jobAt_latchJob s code hn, rfl, rfl, by simp [isWide_iff, lowWord_eq]⟩

/-- A rejected `SEND`, or any other answer, changes nothing a `TICK` reads (R160). -/
theorem execTick_answer (s : State) (r : Response) : execTick (s.openStep.respond r) = execTick s := rfl

/-! ## The tick of a job, by its position -/

section Tick

variable {code : Wide} {n : Nat} {s t : State}

theorem lt_jobTicks (hj : JobAt code n s) : s.pos.toNat < jobTicks n :=
  Nat.lt_succ_of_le hj.position

/-- `TICK` never writes `CODE_EXT` (10_state.md R29). -/
theorem execTick_codeExt (hs : s.txState = .sending) (ht : execTick s = .next t) : t.codeExt = s.codeExt := by
  rcases execTick_eq_next hs ht with ⟨-, rfl⟩ | ⟨-, -, rfl⟩ | ⟨-, -, rfl⟩ | ⟨-, rfl⟩
  · simp [afterPulse]
  · simp [afterTerminal]
  · simp [afterRelease]
  · simp

theorem lineFor_eq_pulseLine (hj : JobAt code n s) (hp : s.pos.toNat % 4 = 0) :
    lineFor s.currentBit = pulseLine code n (s.pos.toNat / 4) := by
  rw [job_currentBit hj hp]
  rfl

/-- The line operations before the pulse: both lines to output at the first tick only (41_transmitter.md R143). -/
theorem prepared_lineOps (s : State) :
    (prepared s).lineOps = if s.pos.toNat = 0 then [⟨.d0, .asOutput⟩, ⟨.d1, .asOutput⟩] else [] := by
  have h0 : s.openStep.pos = 0#8 ↔ s.pos.toNat = 0 := BitVec.toNat_inj.symm
  simp only [prepared, h0]
  split
  · simp [bothAfter_eq]
  · rfl

/-- The line operations of a tick are those R156's table gives for its position. -/
theorem job_tick_lineOps (hj : JobAt code n s) (ht : execTick s = .next t) :
    t.lineOps = tickTable code n s.pos.toNat := by
  have hpos := hj.position
  rcases execTick_eq_next hj.sending ht with ⟨hp, rfl⟩ | ⟨hp, hr, rfl⟩ | ⟨hp, hr, rfl⟩ | ⟨hp, rfl⟩
  · show (prepared s).lineOps ++ [⟨lineFor s.currentBit, .driveLow⟩] = _
    rw [prepared_lineOps, lineFor_eq_pulseLine hj hp, tickTable]
    by_cases h0 : s.pos.toNat = 0
    · simp [h0]
    · simp [h0, hp]
  · rw [tickTable, if_neg (by omega), if_neg (by omega), if_pos (job_last_pos hj hp hr)]
    rfl
  · have hnot : s.pos.toNat ≠ 4 * (n - 1) + 1 := fun hlast => hr <| BitVec.eq_of_toNat_eq <| by
      have hwidth := hj.width
      rw [hj.remaining, show (1#8 : Byte).toNat = 1 from rfl]
      omega
    rw [tickTable, if_neg (by omega), if_neg (by omega), if_neg hnot, if_pos hp]
    rfl
  · rw [tickTable, if_neg (by omega), if_neg (by omega), if_neg (by omega), if_neg (by omega)]
    simp

/-- After a tick the line of the current bit is low if the tick asserted it, and every other level is high (R156). -/
theorem job_tick_busLevel (hj : JobAt code n s) (ht : execTick s = .next t) (l : Line) :
    busLevel t l =
      if s.pos.toNat % 4 = 0 ∧ l = pulseLine code n (s.pos.toNat / 4) then .low else .high := by
  rcases execTick_eq_next hj.sending ht with ⟨hp, rfl⟩ | ⟨hp, -, rfl⟩ | ⟨hp, -, rfl⟩ | ⟨hp, rfl⟩
  · obtain ⟨hl0, hl1⟩ := prepared_lines hj hp
    rw [← lineFor_eq_pulseLine hj hp]
    cases l <;> cases hb : s.currentBit <;> simp [busLevel, levelOf, afterPulse, lineFor, hb, hp, hl0, hl1]
  · rw [if_neg (by omega)]
    cases l <;> rfl
  · rw [if_neg (by omega)]
    cases l <;> rfl
  · have hl := hj.lines (by omega)
    rw [LinesAt, if_neg (by omega)] at hl
    rw [if_neg (by omega)]
    cases l <;> simp [busLevel, levelOf, hl]

end Tick

/-! ## A job, tick by tick -/

/-- Where a job stands after `k` of its ticks: at position `k` before its last tick, and in the state R39 gives after it. -/
def JobAfter (code : Wide) (n k : Nat) (s : State) : Prop :=
  if k < jobTicks n then JobAt code n s ∧ s.pos.toNat = k else JobDone n s

section Progress

variable {code : Wide} {n k : Nat} {s t u : State}

theorem jobAt_of_jobAfter (h : JobAfter code n k s) (hk : k < jobTicks n) : JobAt code n s ∧ s.pos.toNat = k := by
  rwa [JobAfter, if_pos hk] at h

theorem jobDone_of_jobAfter (h : JobAfter code n k s) (hk : ¬ k < jobTicks n) : JobDone n s := by
  rwa [JobAfter, if_neg hk] at h

theorem jobAfter_of_jobAt (hj : JobAt code n s) : JobAfter code n s.pos.toNat s := by
  rw [JobAfter, if_pos (lt_jobTicks hj)]
  exact ⟨hj, rfl⟩

/-- A tick takes a job one tick further. -/
theorem jobAfter_tick (hj : JobAt code n s) (ht : execTick s = .next t) : JobAfter code n (s.pos.toNat + 1) t := by
  rcases job_tick hj ht with ⟨hjt, hp⟩ | ⟨hdone, hlast, -⟩
  · rw [← hp]
    exact jobAfter_of_jobAt hjt
  · rwa [JobAfter, if_neg (by rw [jobTicks]; omega)]

theorem ticks_succ (h : ticks k s = .next u) : ticks (k + 1) s = execTick u := by
  rw [ticks, h]
  rfl

/-- The ticks of a job complete and take it where their number says (41_transmitter.md R155). -/
theorem ticks_of_job (hj : JobAt code n s) (h0 : s.pos = 0#8) (hk : k ≤ jobTicks n) :
    ∃ u, ticks k s = .next u ∧ JobAfter code n k u ∧ u.codeExt = s.codeExt := by
  induction k with
  | zero =>
    have hstart := jobAfter_of_jobAt hj
    rw [h0] at hstart
    exact ⟨s, rfl, hstart, rfl⟩
  | succ k ih =>
    obtain ⟨u, hu, hafter, hext⟩ := ih (by omega)
    obtain ⟨hju, rfl⟩ := jobAt_of_jobAfter hafter hk
    obtain ⟨v, hv⟩ := execTick_of_job hju
    exact ⟨v, (ticks_succ hu).trans hv, jobAfter_tick hju hv, (execTick_codeExt hju.sending hv).trans hext⟩

/-- Before its last tick a job is where the number of its ticks says. -/
theorem ticks_inside_job (hj : JobAt code n s) (h0 : s.pos = 0#8) (hk : k < jobTicks n) :
    ∃ u, ticks k s = .next u ∧ JobAt code n u ∧ u.pos.toNat = k := by
  obtain ⟨u, hu, hafter, -⟩ := ticks_of_job hj h0 hk.le
  exact ⟨u, hu, jobAt_of_jobAfter hafter hk⟩

/-- The tick at position `k` of a job does on the lines what R156's table says of `POS = k`. -/
theorem ticks_lines (hj : JobAt code n s) (h0 : s.pos = 0#8) (hk : k < jobTicks n) :
    ∃ u, ticks (k + 1) s = .next u ∧ u.lineOps = tickTable code n k ∧
      ∀ l, busLevel u l = if k % 4 = 0 ∧ l = pulseLine code n (k / 4) then .low else .high := by
  obtain ⟨u, hu, hju, rfl⟩ := ticks_inside_job hj h0 hk
  obtain ⟨v, hv⟩ := execTick_of_job hju
  exact ⟨v, (ticks_succ hu).trans hv, job_tick_lineOps hju hv, job_tick_busLevel hju hv⟩

/-- A tick pulses in phase 0 only, once. -/
theorem pulses_tickTable (code : Wide) (n p : Nat) :
    pulses (tickTable code n p) = if p % 4 = 0 then [pulseLine code n (p / 4)] else [] := by
  by_cases h0 : p = 0
  · subst h0
    rfl
  by_cases hp : p % 4 = 0
  · rw [tickTable, if_neg h0, if_pos hp, if_pos hp]
    rfl
  · rw [tickTable, if_neg h0, if_neg hp, if_neg hp]
    split_ifs <;> rfl

/-- The first `k` ticks of a job pulse the bits whose phase-0 tick is among them, in order (R154). -/
theorem pulses_ticksOps (hj : JobAt code n s) (h0 : s.pos = 0#8) (hk : k ≤ jobTicks n) :
    pulses (ticksOps k s) = (List.range ((k + 3) / 4)).map (pulseLine code n) := by
  induction k with
  | zero => rfl
  | succ k ih =>
    obtain ⟨u, hu, hops, -⟩ := ticks_lines hj h0 hk
    have hlast : pulses (opsOf (ticks (k + 1) s)) = if k % 4 = 0 then [pulseLine code n (k / 4)] else [] := by
      rw [hu, ← pulses_tickTable, ← hops]
      rfl
    rw [ticksOps, pulses, List.filterMap_append, ← pulses, ← pulses, ih (by omega), hlast]
    by_cases hp : k % 4 = 0
    · rw [if_pos hp, show (k + 1 + 3) / 4 = k / 4 + 1 by omega, show (k + 3) / 4 = k / 4 by omega, List.range_succ,
        List.map_append]
      rfl
    · rw [if_neg hp, List.append_nil, show (k + 1 + 3) / 4 = (k + 3) / 4 by omega]

end Progress

/-! ## A job among other requests -/

/-- A run of `k + 1` steps is a run of `k` steps and one more. -/
theorem run_succ (k : Nat) (s : State) :
    Host.Core.run core (k + 1) s = andThen (Host.Core.run core k s) step := by
  induction k generalizing s with
  | zero =>
    cases h : step s with
    | next t => exact (run_of_next h).trans h.symm
    | fault r => exact (run_of_fault h).trans h.symm
    | refused r => exact (run_of_refused h).trans h.symm
  | succ k ih =>
    cases h : step s with
    | next t => rw [run_of_next h, run_of_next h, ih]
    | fault r => rw [run_of_fault h, run_of_fault h]; rfl
    | refused r => rw [run_of_refused h, run_of_refused h]; rfl

theorem tickCount_take_succ (ws : List Request) (k : Nat) :
    tickCount (ws.take (k + 1)) = tickCount (ws.take k) + tickCount ((ws.drop k).take 1) := by
  rw [List.take_add, tickCount, List.countP_append]
  rfl

section Requests

variable {code : Wide} {n : Nat} {s : State}

/-- Every decoded request in a job completes, and takes the job one tick further exactly if it is a `TICK`
(41_transmitter.md R161). -/
theorem job_exec_completes (hj : JobAt code n s) (i : Instr) :
    ∃ t, exec i s = .next t ∧ JobAfter code n (s.pos.toNat + if i = .tick then 1 else 0) t := by
  by_cases hi : i = .tick
  · subst hi
    obtain ⟨t, ht⟩ := execTick_of_job hj
    exact ⟨t, ht, jobAfter_tick hj ht⟩
  · rcases exec_cases i s with ⟨r, hr⟩ | ⟨hidle, -⟩ | ⟨-, htick⟩
    · rw [if_neg hi]
      exact ⟨_, hr, jobAfter_of_jobAt (jobAt_answer hj r)⟩
    · simp [hj.sending] at hidle
    · exact absurd htick hi

/-- Every step in a job whose next word decodes completes, and counts the `TICK` it performs, if any. -/
theorem job_step_completes (hj : JobAt code n s) (hm : s.mark = .clear) (hc : s.config.Legal)
    (hok : ∀ w ∈ s.port.take 1, ∃ i, decode w = .ok i) :
    ∃ t, step s = .next t ∧ JobAfter code n (s.pos.toNat + tickCount (s.port.take 1)) t ∧
      t.port = s.port.drop 1 ∧ t.mark = .clear ∧ t.config.Legal := by
  cases hp : s.port with
  | nil => exact ⟨s, step_of_empty_port hm hc hp, jobAfter_of_jobAt hj, hp, hm, hc⟩
  | cons w rest =>
    obtain ⟨i, hi⟩ := hok w (by simp [hp])
    obtain ⟨t, ht, hafter⟩ := job_exec_completes (jobAt_port hj rest) i
    obtain ⟨hconfig, hport, hmark⟩ := exec_frame ht
    refine ⟨t, ?_, ?_, hport, hmark.trans hm, hconfig ▸ hc⟩
    · rw [step_of_request hm hc hp, hi]
      exact ht
    · simpa [tickCount, hi] using hafter

/-- A run over words that decode takes a job as many ticks further as the words hold, up to its end (R155, R161). -/
theorem job_run_completes (hj : JobAt code n s) (h0 : s.pos = 0#8) (hm : s.mark = .clear) (hc : s.config.Legal)
    (k : Nat) (hok : ∀ w ∈ s.port.take k, ∃ i, decode w = .ok i)
    (hlt : tickCount (s.port.take (k - 1)) < jobTicks n) :
    ∃ u, Host.Core.run core k s = .next u ∧ JobAfter code n (tickCount (s.port.take k)) u ∧
      u.port = s.port.drop k ∧ u.mark = .clear ∧ u.config.Legal := by
  induction k with
  | zero =>
    have hstart := jobAfter_of_jobAt hj
    rw [h0] at hstart
    exact ⟨s, rfl, hstart, rfl, hm, hc⟩
  | succ k ih =>
    have hsplit := tickCount_take_succ s.port
    have hbefore : tickCount (s.port.take (k - 1)) < jobTicks n :=
      (List.Sublist.countP_le (List.take_sublist_take_left (Nat.sub_le k 1))).trans_lt hlt
    rw [List.take_add] at hok
    obtain ⟨u, hu, hafter, hport, hmu, hcu⟩ := ih (fun w hw => hok w (List.mem_append_left _ hw)) hbefore
    obtain ⟨hju, hpos⟩ := jobAt_of_jobAfter hafter hlt
    rw [← hport] at hok
    obtain ⟨v, hv, hnext, hportv, hmv, hcv⟩ :=
      job_step_completes hju hmu hcu fun w hw => hok w (List.mem_append_right _ hw)
    refine ⟨v, by rw [run_succ, hu]; exact hv, ?_, by rw [hportv, hport, List.drop_drop], hmv, hcv⟩
    rwa [hsplit, ← hport, ← hpos]

end Requests

end Sys2Proof.Machine

namespace Sys2Proof.Transmitter

open Sys2Proof.Machine Sys2Proof.Safety

/-! ## The statements of 41_transmitter.md

They have a namespace of their own because the model's `Machine.terminalTick` has the name of one of them. -/

/-- Settles O22: the three cases of `execSend`, the latched registers in arithmetic. -/
theorem sendMeaning : Obligations.SendMeaning := by
  intro s code n
  refine ⟨fun hbusy => execSend_busy hbusy code n, fun hidle hbad => ?_, fun hidle h1 h64 => ?_⟩
  · exact execSend_bad hidle code ((badCount_iff n).2 hbad)
  · refine (execSend_good hidle code (badCount_eq_false h1 h64)).trans ?_
    rw [latchJob_eq _ code h1 h64]
    rfl

/-- Settles O24: the guard of `TICK` fails. -/
theorem tickOutsideAJob : Obligations.TickOutsideAJob :=
  fun _ h => execTick_outside h

/-- Settles O28: the phase-1 tick that finds one bit left. -/
theorem terminalTick : Obligations.TerminalTick := by
  intro s hs hp h0 h1 hr
  refine (execTick_lines_out hs hp h0 h1).trans ?_
  rw [if_pos hr]
  rfl

/-- Settles O43: the ticks of a job take it to its end, and none of them writes `CODE_EXT`. -/
theorem jobLengthAndEnd : Obligations.JobLengthAndEnd := by
  intro code n s hidle h1 h64
  obtain ⟨t, hsend, hj, h0, -, hext⟩ := exec_send_starts_job code hidle h1 h64
  refine ⟨t, hsend, fun k hk => ?_, ?_⟩
  · obtain ⟨u, hu, hju, -⟩ := ticks_inside_job hj h0 hk
    exact ⟨u, hu, hju.sending⟩
  · obtain ⟨u, hu, hafter, hextu⟩ := ticks_of_job hj h0 le_rfl
    exact ⟨u, hu, jobDone_of_jobAfter hafter (lt_irrefl _), hextu.trans hext⟩

/-- Settles O44: only `TICK` moves a job, and every request in it completes. -/
theorem jobsRunToCompletion : Obligations.JobsRunToCompletion := by
  intro code n s t ws k hm hc hidle h1 h64 hsend hok hlt
  obtain ⟨t', hsend', hj, h0, -⟩ := exec_send_starts_job code hidle h1 h64
  cases hsend'.symm.trans hsend
  obtain ⟨hconfig, -, hmark⟩ := exec_frame hsend
  obtain ⟨u, hu, hafter, -⟩ :=
    job_run_completes (jobAt_port hj ws) h0 (hmark.trans hm) (by rw [hconfig]; exact hc) k hok hlt
  refine ⟨u, hu, ?_⟩
  split
  next hk =>
    obtain ⟨hju, hpos⟩ := jobAt_of_jobAfter hafter hk
    exact ⟨hju.sending, hpos⟩
  next hk => exact jobDone_of_jobAfter hafter hk

/-- Settles O45: each tick finds the job at its own position, where the tick's phase fixes its line operations. -/
theorem lineOperationsOfAJob : Obligations.LineOperationsOfAJob := by
  intro code n s p hidle h1 h64 hp
  obtain ⟨t, hsend, hj, h0, -⟩ := exec_send_starts_job code hidle h1 h64
  obtain ⟨u, hu, hlines⟩ := ticks_lines hj h0 hp
  exact ⟨t, u, hsend, hu, hlines⟩

/-- Settles O46: the phase-0 ticks of a job are those of its `n` bits. -/
theorem pulsesInBitOrder : Obligations.PulsesInBitOrder := by
  intro code n s hidle h1 h64
  obtain ⟨t, hsend, hj, h0, -⟩ := exec_send_starts_job code hidle h1 h64
  refine ⟨t, hsend, ?_⟩
  rw [pulses_ticksOps hj h0 le_rfl, show (jobTicks n.toNat + 3) / 4 = n.toNat by rw [jobTicks]; omega]

/-- Settles O48: before its last tick the job is in `SENDING`, after it in `IDLE`, and a `TICK` reads no output. -/
theorem rejectedSendLeavesTheJob : Obligations.RejectedSendLeavesTheJob := by
  intro code code' n n' s t hidle h1 h64 hsend
  obtain ⟨t', hsend', hj, h0, -⟩ := exec_send_starts_job code hidle h1 h64
  cases hsend'.symm.trans hsend
  refine ⟨fun k hk => ?_, fun h1' h64' => ?_⟩
  · obtain ⟨u, hu, hju, -⟩ := ticks_inside_job hj h0 hk
    have hbusy : u.txState ≠ .idle := by simp [hju.sending]
    exact ⟨u, _, hu, execSend_busy hbusy code' n', rfl, execTick_answer u _⟩
  · obtain ⟨u, hu, hafter, -⟩ := ticks_of_job hj h0 le_rfl
    obtain ⟨v, hv, -, -, hr, -⟩ := exec_send_starts_job code' (jobDone_of_jobAfter hafter (lt_irrefl _)).idle h1' h64'
    exact ⟨u, v, hu, hv, hr⟩

end Sys2Proof.Transmitter

namespace Sys2Proof.Exceptions

open Sys2Proof.Machine Sys2Proof.Safety

/-! ## Marked runs -/

theorem advance_of_fault {s : State} {f : Fault} (h : step s = .fault f) : advance s = stopped s (.faulted f) := by
  rw [advance, h, State.settle_fault]
  rfl

/-- The fault mark bars every later step, whatever requests wait: a stopped state is where its own next step stops. -/
theorem advance_stopped (s : State) (f : Fault) : advance (stopped s (.faulted f)) = stopped s (.faulted f) := by
  have hstep : step (stopped s (.faulted f)) = .fault f := step_of_faulted rfl
  exact advance_of_fault hstep

/-- A state one step leaves as it is, every run leaves as it is. -/
theorem advanceBy_of_fixed {s : State} (h : advance s = s) (k : Nat) : advanceBy k s = s := by
  induction k with
  | zero => rfl
  | succ k ih => rw [advanceBy, h, ih]

theorem not_goodFinal_stopped (s : State) (f : Fault) : ¬ GoodFinal (stopped s (.faulted f)) :=
  Mark.noConfusion

/-! ## The statements of 60_exceptions.md -/

/-- Settles O11: the step's fault leaves a stopped state, offering requests to it leaves a stopped state, and that is a fixed
point of the marked run. -/
theorem faultsAreFinal : Obligations.FaultsAreFinal := by
  intro s f ws k h
  have hstop : advance s = stopped s (.faulted f) := advance_of_fault h
  have hport : { advance s with port := ws } = stopped { s with port := ws } (.faulted f) := by rw [hstop]; rfl
  have hfixed : advanceBy k { advance s with port := ws } = { advance s with port := ws } := by
    rw [hport]
    exact advanceBy_of_fixed (advance_stopped _ f) k
  refine ⟨hstop, hfixed, ?_⟩
  rw [hfixed, hport]
  exact not_goodFinal_stopped _ f

end Sys2Proof.Exceptions

namespace Sys2Proof

/-! ## A request word by its four fields -/

theorem n8Field_toNat (w : Request) : (n8Field w).toNat = w.toNat / 256 % 256 := by
  rw [n8Field_eq, BitVec.toNat_ofNat]

theorem v64Field_toNat (w : Request) : (v64Field w).toNat = w.toNat / 65536 := by
  have hw := w.isLt
  rw [v64Field_eq, BitVec.toNat_ofNat, Nat.mod_eq_of_lt (by omega)]

/-- The four fields are the whole word (30_encoding.md R71). -/
theorem request_eq_iff_fields (w v : Request) :
    w = v ↔ opField w = opField v ∧ rsvField w = rsvField v ∧ n8Field w = n8Field v ∧ v64Field w = v64Field v := by
  refine ⟨by rintro rfl; exact ⟨rfl, rfl, rfl, rfl⟩, fun ⟨hop, hrsv, hn8, hv64⟩ => BitVec.eq_of_toNat_eq ?_⟩
  rw [← BitVec.toNat_inj, opField_toNat, opField_toNat] at hop
  rw [← BitVec.toNat_inj, rsvField_toNat, rsvField_toNat] at hrsv
  rw [← BitVec.toNat_inj, n8Field_toNat, n8Field_toNat] at hn8
  rw [← BitVec.toNat_inj, v64Field_toNat, v64Field_toNat] at hv64
  omega

/-- R72's table gives an operation for its own code only. -/
theorem eq_opBits_of_opCodeOf {op : BitVec 3} {k : OpCode} (h : opCodeOf op = some k) : op = opBits k := by
  revert op k
  decide

theorem opCode_operandsOf (k : OpCode) (n8 : Byte) (v64 : Wide) : (operandsOf k n8 v64).opCode = k := by
  cases k <;> rfl

/-- Everything the decoder does that accepts a word (R78). -/
theorem decode_eq_ok {w : Request} {i : Instr} (h : decode w = .ok i) :
    ∃ k, opField w = opBits k ∧ rsvField w = 0#5 ∧ i = operandsOf k (n8Field w) (v64Field w) := by
  cases hk : opCodeOf (opField w) with
  | none => simp [decode_of_op_reserved hk] at h
  | some k =>
    by_cases hr : rsvField w = 0#5
    · rw [decode_of_op hk hr] at h
      cases h
      exact ⟨k, eq_opBits_of_opCodeOf hk, hr, rfl⟩
    · simp [decode_of_rsv_ne_zero hk hr] at h

/-- A decoded word is the encoding of its request exactly when it carries the fields the request does. -/
theorem encode_eq_iff {w : Request} {i : Instr} (h : decode w = .ok i) :
    encode i = w ↔ n8Of i = n8Field w ∧ v64Of i = v64Field w := by
  obtain ⟨k, hop, hrsv, rfl⟩ := decode_eq_ok h
  rw [request_eq_iff_fields, opField_encode, rsvField_encode, n8Field_encode, v64Field_encode, opCode_operandsOf, hop,
    hrsv]
  simp

/-! ## The statements of 30_encoding.md on encoded words -/

/-- Settles O1: the encoder puts each field where the decoder looks for it. -/
theorem decodeOfEncode : Obligations.DecodeOfEncode :=
  decode_encode

/-- Settles O2: each operation leaves zero the fields it does not carry. -/
theorem encodeOfDecode : Obligations.EncodeOfDecode := by
  intro w i h
  have henc := encode_eq_iff h
  obtain ⟨k, -, -, rfl⟩ := decode_eq_ok h
  cases k with
  | encodeRaw => exact henc.2 ⟨rfl, rfl⟩
  | code => exact henc.2 ⟨rfl, rfl⟩
  | send => exact henc.2 ⟨rfl, rfl⟩
  | addParity =>
    refine Iff.trans ?_ henc.symm
    show _ ↔ 0#8 = n8Field w ∧ v64Field w = v64Field w
    rw [← BitVec.toNat_inj, n8Field_toNat]
    simp [eq_comm]
  | tick =>
    refine Iff.trans ?_ henc.symm
    show _ ↔ 0#8 = n8Field w ∧ 0#64 = v64Field w
    rw [← BitVec.toNat_inj, ← BitVec.toNat_inj, n8Field_toNat, v64Field_toNat, BitVec.toNat_ofNat, BitVec.toNat_ofNat]
    omega

end Sys2Proof

namespace Sys2Proof.Machine

open Sys2Proof.Safety

/-! ## The invariants of 10_state.md section 5, from reset and step by step -/

/-- Settles O38: in `IDLE` with both lines floating a state is good whatever its registers and its port hold. -/
theorem resetIsGood : Obligations.ResetIsGood :=
  fun _ ws hc => goodState_reset hc ws

/-- Settles O39: every request keeps a good state good, and so does taking its word off the port. -/
theorem stepKeepsGoodStates : Obligations.StepKeepsGoodStates :=
  goodState_step

/-- Settles O40: a `TICK` moves the job on by one place or ends it, and no other request moves it. -/
theorem stepKeepsTheJob : Obligations.StepKeepsTheJob :=
  fun _ _ _ _ => job_step

/-- Settles O23: the latched job is at its start. -/
theorem sendStartsTheJob : Obligations.SendStartsTheJob := by
  intro s code n hidle h1 h64
  have hn := badCount_eq_false h1 h64
  exact ⟨_, execSend_good hidle code hn, jobAt_latchJob s code hn, rfl, rfl, rfl, rfl, rfl⟩

/-! ## The step -/

/-- Settles O6: the law of a waiting request, at a word that decodes. -/
theorem stepPerformsTheRequest : Obligations.StepPerformsTheRequest := by
  intro s w rest i hm hc hp hd
  rw [step_of_request hm hc hp, hd]

/-- Settles O9: the law of an empty port. -/
theorem stepWithoutRequest : Obligations.StepWithoutRequest :=
  fun _ => step_of_empty_port

/-- Settles O10: no request writes the port, the build or the mark. -/
theorem stepTakesOneRequest : Obligations.StepTakesOneRequest := by
  intro s t h
  obtain ⟨-, -, ⟨hp, rfl⟩ | ⟨w, rest, i, hp, -, hx⟩⟩ := step_eq_next h
  · simp [hp]
  · obtain ⟨hconfig, hport, hmark⟩ := exec_frame hx
    exact ⟨by rw [hport, hp]; rfl, hconfig, hmark⟩

end Sys2Proof.Machine

namespace Sys2Proof.Exceptions

open Sys2Proof.Machine Sys2Proof.Safety

/-! ## Refused requests -/

theorem advance_of_refused {s : State} {r : Refusal} (h : step s = .refused r) :
    advance s = stopped s (.refused r) := by
  rw [advance, h, State.settle_refused]
  rfl

/-- A refused step stops the run: every later state is the refused one (60_exceptions.md R174). -/
theorem advanceBy_of_refused {s : State} {r : Refusal} (h : step s = .refused r) (k : Nat) :
    advanceBy (k + 1) s = stopped s (.refused r) := by
  have hfixed : advance (stopped s (.refused r)) = stopped s (.refused r) := advance_of_refused (step_of_refused rfl)
  rw [advanceBy, advance_of_refused h, advanceBy_of_fixed hfixed]

/-- A step whose word the decoder refuses is refused, and the run stops there (30_encoding.md R76). -/
theorem refusal_of_decode {s : State} {w : Request} {rest : List Request} {e : DecodeError} (hm : s.mark = .clear)
    (hc : s.config.Legal) (hp : s.port = w :: rest) (hd : decode w = .error e) :
    step s = .refused (refusalOf e) ∧ ∀ k, advanceBy (k + 1) s = stopped s (.refused (refusalOf e)) := by
  have hstep : step s = .refused (refusalOf e) := by rw [step_of_request hm hc hp, hd]
  exact ⟨hstep, advanceBy_of_refused hstep⟩

/-- Settles O7: the decoding algorithm says which words are refused, and a refused step stops the run. -/
theorem reservedRequestsRefused : Obligations.ReservedRequestsRefused := by
  intro s w rest hm hc hp op rsv
  have hd : decode w = _ := decodeByTheAlgorithm w
  by_cases hop : op = 0 ∨ op = 6 ∨ op = 7
  · rw [if_pos hop]
    rw [if_pos hop] at hd
    exact refusal_of_decode hm hc hp hd
  rw [if_neg hop]
  rw [if_neg hop] at hd
  by_cases hrsv : rsv ≠ 0
  · rw [if_pos hrsv]
    rw [if_pos hrsv] at hd
    exact refusal_of_decode hm hc hp hd
  · rw [if_neg hrsv]
    rw [if_neg hrsv] at hd
    intro r hr
    obtain ⟨v, _, e, hp', he, -⟩ := step_eq_refused hm hc hr
    cases hp.symm.trans hp'
    rw [he] at hd
    split_ifs at hd

end Sys2Proof.Exceptions

namespace Sys2Proof.Machine

open Sys2Proof.Safety

/-! ## What a tick counts, answers and ends -/

/-- No `TICK` answers anything (30_encoding.md R79). -/
theorem execTick_response {s t : State} (ht : execTick s = .next t) : t.response = .silent := by
  by_cases hs : s.txState = .sending
  · rcases execTick_eq_next hs ht with ⟨-, rfl⟩ | ⟨-, -, rfl⟩ | ⟨-, -, rfl⟩ | ⟨-, rfl⟩
    · simp [afterPulse]
    · simp [afterTerminal]
    · simp [afterRelease]
    · simp
  · rw [execTick_outside hs] at ht
    cases ht
    rfl

/-- `TICK` counts a bit in phase 1 and in no other phase (41_transmitter.md R147). -/
theorem execTick_remain {s t : State} (hs : s.txState = .sending) (ht : execTick s = .next t) :
    t.remain = if s.pos.toNat % 4 = 1 then s.remain - 1#8 else s.remain := by
  rcases execTick_eq_next hs ht with ⟨hp, rfl⟩ | ⟨hp, hr, rfl⟩ | ⟨hp, -, rfl⟩ | ⟨hp, rfl⟩
  · rw [if_neg (by omega)]
    simp [afterPulse]
  · rw [if_pos hp, hr]
    rfl
  · rw [if_pos hp]
    rfl
  · rw [if_neg (by omega)]
    simp

/-- `TICK` moves `POS` on by one, but for the terminal tick, which leaves it (R149, R150). -/
theorem execTick_pos {s t : State} (hs : s.txState = .sending) (ht : execTick s = .next t) :
    t.pos = if s.pos.toNat % 4 = 1 ∧ s.remain = 1#8 then s.pos else s.pos + 1#8 := by
  rcases execTick_eq_next hs ht with ⟨hp, rfl⟩ | ⟨hp, hr, rfl⟩ | ⟨hp, hr, rfl⟩ | ⟨hp, rfl⟩
  · rw [if_neg (by omega)]
    rfl
  · rw [if_pos ⟨hp, hr⟩]
    rfl
  · rw [if_neg fun h => hr h.2]
    rfl
  · rw [if_neg (by omega)]
    rfl

/-- `TICK` leaves `SENDING` at the terminal tick only, and then for `IDLE` (R149). -/
theorem execTick_txState {s t : State} (hs : s.txState = .sending) (ht : execTick s = .next t) :
    t.txState = if s.pos.toNat % 4 = 1 ∧ s.remain = 1#8 then .idle else .sending := by
  rcases execTick_eq_next hs ht with ⟨hp, rfl⟩ | ⟨hp, hr, rfl⟩ | ⟨hp, hr, rfl⟩ | ⟨hp, rfl⟩
  · rw [if_neg (by omega)]
    simpa [afterPulse] using hs
  · rw [if_pos ⟨hp, hr⟩]
    rfl
  · rw [if_neg fun h => hr h.2]
    simpa [afterRelease] using hs
  · rw [if_neg (by omega)]
    simpa using hs

/-- `TICK` leaves `CODE` as it is or takes `CODE_EXT` into it (R146). -/
theorem execTick_code {s t : State} (hs : s.txState = .sending) (ht : execTick s = .next t) :
    t.code = s.code ∨ t.code = s.codeExt := by
  have hcarry (u : State) : u.carryOver.code = u.code ∨ u.carryOver.code = u.codeExt := by
    rw [State.carryOver_code]
    split_ifs
    · exact .inr rfl
    · exact .inl rfl
  rcases execTick_eq_next hs ht with ⟨-, rfl⟩ | ⟨-, -, rfl⟩ | ⟨-, -, rfl⟩ | ⟨-, rfl⟩
  · exact hcarry s.openStep.shiftMask
  · exact .inl rfl
  · exact hcarry s.openStep
  · exact hcarry s.openStep

/-- In a good state every `TICK` completes (R151). -/
theorem goodState_tick {s : State} (hs : GoodState s) : ∃ t, execTick s = .next t := by
  obtain ⟨-, -, ⟨hidle, -⟩ | ⟨code, n, hj, -⟩⟩ := hs
  · exact ⟨_, execTick_outside (by simp [hidle])⟩
  · exact execTick_of_job hj

/-! ## Exactly when a tick faults -/

/-- The causes of a `TICK`'s fault: a line it drives or releases floats (10_state.md R30; 60_exceptions.md R172). -/
def TickFault (s : State) (f : Fault) : Prop :=
  s.txState = .sending ∧ s.pos ≠ 0#8 ∧
    ((s.pos.toNat % 4 = 0 ∧ ∃ l, l = (if s.code &&& s.mask = 0#32 then .d0 else .d1) ∧
        s.driver l = .float ∧ f = .lineMisuse l .driveLow) ∨
      (s.pos.toNat % 4 = 1 ∧ s.ld0 = .float ∧ f = .lineMisuse .d0 .releaseHigh) ∨
      (s.pos.toNat % 4 = 1 ∧ s.ld0 ≠ .float ∧ s.ld1 = .float ∧ f = .lineMisuse .d1 .releaseHigh))

/-- The first tick of a job leaves no line floating; a later one finds the lines as they were (41_transmitter.md R143). -/
theorem prepared_driver_eq_float (s : State) (l : Line) :
    (prepared s).driver l = .float ↔ s.pos ≠ 0#8 ∧ s.driver l = .float := by
  by_cases h0 : s.pos = 0#8
  · cases l <;> simp [prepared, h0, bothAfter_eq, driverAfter]
  · cases l <;> simp [prepared, h0]

theorem assertPhase_eq_fault (s : State) (f : Fault) : assertPhase s = .fault f ↔
    s.driver (lineFor s.currentBit) = .float ∧ f = .lineMisuse (lineFor s.currentBit) .driveLow := by
  rcases assertPhase_cases s with ⟨hl, h⟩ | ⟨hl, h⟩
  · simp [h, hl, eq_comm]
  · simp [h, hl]

theorem releasePhase_eq_fault (s : State) (f : Fault) : releasePhase s = .fault f ↔
    (s.ld0 = .float ∧ f = .lineMisuse .d0 .releaseHigh) ∨
      (s.ld0 ≠ .float ∧ s.ld1 = .float ∧ f = .lineMisuse .d1 .releaseHigh) := by
  rcases releasePhase_cases s with ⟨h0, h⟩ | ⟨h0, h1, h⟩ | ⟨h0, h1, -, h⟩ | ⟨h0, h1, -, h⟩
  · simp [h, h0, eq_comm]
  · simp [h, h0, h1, eq_comm]
  · simp [h, h0, h1]
  · simp [h, h0, h1]

/-- `TICK` faults exactly for the causes of `TickFault` (60_exceptions.md R172). -/
theorem execTick_eq_fault (s : State) (f : Fault) : execTick s = .fault f ↔ TickFault s f := by
  by_cases hs : s.txState = .sending
  swap
  · simp [TickFault, hs]
  rcases phase_cases s with hp | hp | hp
  · rw [execTick_assert hs hp, assertPhase_eq_fault, prepared_currentBit, prepared_driver_eq_float, lineFor_currentBit]
    simp [TickFault, hs, hp, and_assoc]
  · have h0 : s.pos ≠ 0#8 := fun e => by simp [e] at hp
    rw [execTick_release hs hp, releasePhase_eq_fault]
    simp [TickFault, hs, hp, h0]
  · rw [execTick_gap hs hp]
    simp [TickFault, gapPhase, show s.pos.toNat % 4 ≠ 0 by omega, show s.pos.toNat % 4 ≠ 1 by omega]

/-- Exactly when a request faults: a `SEND` of an illegal width in `IDLE`, or a `TICK` that misuses a line (60_exceptions.md
R172). -/
theorem exec_eq_fault (i : Instr) (s : State) (f : Fault) : exec i s = .fault f ↔
    (∃ code n, i = .send code n ∧ s.txState = .idle ∧ (n.toNat = 0 ∨ 64 < n.toNat) ∧ f = .badBitCount n) ∨
      (i = .tick ∧ TickFault s f) := by
  constructor
  · intro h
    rcases exec_cases i s with ⟨r, hr⟩ | ⟨hidle, code, n, rfl, ⟨hb, hf⟩ | ⟨-, hn⟩⟩ | ⟨-, rfl⟩
    · simp [hr] at h
    · rw [hf] at h
      cases h
      exact .inl ⟨code, n, rfl, hidle, (badCount_iff n).1 hb, rfl⟩
    · simp [hn] at h
    · exact .inr ⟨rfl, (execTick_eq_fault s f).1 h⟩
  · rintro (⟨code, n, rfl, hidle, hb, rfl⟩ | ⟨rfl, hf⟩)
    · exact execSend_bad hidle code ((badCount_iff n).2 hb)
    · exact (execTick_eq_fault s f).2 hf

/-! ## The statements of 10_state.md and 60_exceptions.md on single requests -/

/-- Settles O30: a good state is outside a job, or at a place of one whose driven lines are in output mode. -/
theorem tickCompletes : Obligations.TickCompletes := by
  intro s hs
  obtain ⟨t, ht⟩ := goodState_tick hs
  exact ⟨t, ht, execTick_response ht⟩

/-- Settles O31: a job has a bit left at every place, and its last place is at most 253. -/
theorem tickNeverWrapsACounter : Obligations.TickNeverWrapsACounter := by
  rintro s t ⟨-, -, ⟨hidle, -⟩ | ⟨code, n, hj, -⟩⟩ ht
  · rw [show exec .tick s = _ from execTick_outside (by simp [hidle])] at ht
    cases ht
    exact ⟨.inl rfl, .inl rfl⟩
  · obtain ⟨-, h64⟩ := hj.width
    obtain ⟨-, ⟨-, hleft, -⟩, -, -, -⟩ := jobInvariant_of_jobAt hj
    constructor
    · rw [execTick_remain hj.sending ht]
      split_ifs
      · right
        bv_omega
      · exact .inl rfl
    · rcases job_tick hj ht with ⟨hjt, hinc⟩ | ⟨hdone, hlast, -⟩
      · have hpos := hjt.position
        exact .inr ⟨hinc, by omega⟩
      · exact .inl (hdone.pos.trans hlast.symm)

/-- Settles O34: `exec_eq_fault` names the causes, and no state of a run from reset meets CV2. -/
theorem faultCauses : Obligations.FaultCauses := by
  refine ⟨fun i s => ⟨exec_eq_fault i s, exec_ne_refused i s⟩, fun c ws k l op h => ?_⟩
  have hsafe := linesAreSafe c ws k
  rw [h] at hsafe
  obtain ⟨n, hn⟩ := hsafe
  cases hn

/-- Settles O35: an Encoder answer or a rejected `SEND` writes no register, and what a `TICK` writes is said register by
register. -/
theorem registerWriters : Obligations.RegisterWriters := by
  intro i s t h
  rcases exec_eq_next h with ⟨r, rfl⟩ | ⟨hidle, code, n, rfl, -, rfl⟩ | ⟨hs, rfl, ht⟩
  · simp
  · have hext : ((s.openStep.latchJob code n).respond (.accepted true)).codeExt ≠ s.codeExt → 32 < n.toNat := by
      rw [← isWide_iff]
      intro hne
      by_contra hw
      exact hne (if_neg hw)
    exact ⟨fun _ => .inl ⟨rfl, hidle, rfl⟩, fun _ => .inl ⟨rfl, hidle⟩, fun h => ⟨code, n, rfl, hidle, hext h⟩,
      fun _ => .inl ⟨rfl, hidle⟩, fun _ => .inl ⟨rfl, hidle⟩, fun _ => .inl ⟨rfl, hidle⟩, by simp⟩
  · have hstate := execTick_txState hs ht
    refine ⟨fun hne => .inr ?_, fun hne => .inr ⟨rfl, hs, (execTick_code hs ht).resolve_left hne⟩,
      fun hne => absurd (execTick_codeExt hs ht) hne, fun _ => .inr ⟨rfl, hs⟩, fun hne => .inr ⟨rfl, hs, ?_⟩,
      fun hne => .inr ⟨rfl, hs, ?_⟩, fun _ => ⟨rfl, hs⟩⟩
    · split_ifs at hstate with hlast
      · exact ⟨rfl, hs, hstate, hlast.2⟩
      · exact absurd (hstate.trans hs.symm) hne
    · rw [execTick_remain hs ht] at hne
      by_contra hp
      exact hne (if_neg hp)
    · rw [execTick_pos hs ht] at hne
      split_ifs at hstate hne with hlast
      · exact absurd rfl hne
      · exact hstate

/-! ## The order of a `SEND` and a `TICK` -/

/-- The answer to a `SEND` of a legal width says whether it came in `IDLE` (41_transmitter.md R133, R136). -/
theorem exec_send_answers (s : State) (code : Wide) {n : Byte} (h1 : 1 ≤ n.toNat) (h64 : n.toNat ≤ 64) :
    ∃ t, exec (.send code n) s = .next t ∧ t.response = .accepted (decide (s.txState = .idle)) := by
  by_cases hidle : s.txState = .idle
  · exact ⟨_, execSend_good hidle code (badCount_eq_false h1 h64), by simp [hidle]⟩
  · exact ⟨_, execSend_busy hidle code n, by simp [hidle]⟩

/-- Settles O52: the answer to the `SEND` tells `IDLE` apart, and only a terminal `TICK` leads there from elsewhere. -/
theorem sendAndTickOrder : Obligations.SendAndTickOrder := by
  intro s code n hs h1 h64
  obtain ⟨u, hu⟩ := goodState_tick hs
  obtain ⟨a, ha, hra⟩ := exec_send_answers s code h1 h64
  obtain ⟨b, hb, hrb⟩ := exec_send_answers u code h1 h64
  refine ⟨a, u, b, ha, hu, hb, ?_⟩
  by_cases hsend : s.txState = .sending
  · rw [hra, hrb, execTick_txState hsend hu]
    simp [hsend]
  · rw [execTick_outside hsend] at hu
    cases hu
    have heq : a.response = b.response := hra.trans hrb.symm
    simp [heq, hsend]

end Sys2Proof.Machine

namespace Sys2Proof.Machine

open Sys2Proof.Safety

/-! ## What a tick of each phase leaves, in arithmetic -/

/-- The end of a non-terminal tick (41_transmitter.md R146, R150). -/
theorem endTick_eq (s : State) : s.endTick =
    { s with
      mask := if s.mask = 0#32 then 0x80000000#32 else s.mask
      code := if s.mask = 0#32 then s.codeExt else s.code
      pos := BitVec.ofNat 8 (s.pos.toNat + 1) } := by
  rw [← pos_inc]
  unfold State.endTick State.carryOver
  split <;> rfl

/-- A completed tick of phase 0, on the lines it finds prepared (R143 to R146, R150). -/
theorem afterPulse_eq (s : State) : afterPulse s =
    { s with
      ld0 := if s.currentBit then (prepared s).ld0 else .outLow
      ld1 := if s.currentBit then .outLow else (prepared s).ld1
      mask := if s.mask.toNat / 2 = 0 then 0x80000000#32 else BitVec.ofNat 32 (s.mask.toNat / 2)
      code := if s.mask.toNat / 2 = 0 then s.codeExt else s.code
      pos := BitVec.ofNat 8 (s.pos.toNat + 1)
      response := .silent
      lineOps := (prepared s).lineOps ++ [⟨lineFor s.currentBit, .driveLow⟩] } := by
  simp only [← shift_zero_iff, ← shift_eq]
  rw [afterPulse, endTick_eq]
  rfl

/-! ## The statements of 41_transmitter.md on single ticks -/

/-- Settles O25: the first tick finds both lines put in output mode by itself. -/
theorem firstTickOfAJob : Obligations.FirstTickOfAJob := by
  intro s hs h0 bit done
  have hfree : (prepared s).driver (lineFor s.currentBit) ≠ .float := by simp [prepared_driver_eq_float, h0]
  have hprep : prepared s = bothAfter .asOutput s.openStep := if_pos h0
  refine (execTick_pulse hs (by simp [h0]) hfree).trans ?_
  rw [afterPulse_eq, hprep, bothAfter_eq, currentBit_eq, h0]
  simp [bit, done, driverAfter, lineFor]

/-- Settles O26: a later phase-0 tick finds the lines as they were. -/
theorem pulseTick : Obligations.PulseTick := by
  intro s hs hp h0 bit done hline
  have hbit : s.currentBit = bit := currentBit_eq s
  have hfree : (prepared s).driver (lineFor s.currentBit) ≠ .float := by
    rw [ne_eq, prepared_driver_eq_float, hbit]
    cases hb : bit <;> simpa [hb, h0, lineFor] using hline
  have hprep : prepared s = s.openStep := if_neg h0
  refine (execTick_pulse hs hp hfree).trans ?_
  rw [afterPulse_eq, hprep, hbit]
  simp [done, lineFor]

/-- Settles O27: the phase-1 tick that finds two bits left or more. -/
theorem releaseTick : Obligations.ReleaseTick := by
  intro s hs hp h0 h1 hr
  have hne : s.remain ≠ 1#8 := fun e => by simp [e] at hr
  refine (execTick_lines_out hs hp h0 h1).trans ?_
  rw [if_neg hne, afterRelease, endTick_eq, ← remain_dec (by omega)]
  rfl

/-- Settles O29: phases 2 and 3 run the end of the tick alone. -/
theorem gapTick : Obligations.GapTick := by
  intro s hs hp
  refine (execTick_gap hs hp).trans ?_
  rw [gapPhase, endTick_eq]
  rfl

/-! ## The statements of 10_state.md on lines, outputs and reset -/

/-- A line operation that completes moves its line's driver, is listed, and changes nothing else (10_state.md R30). -/
theorem lineOp_eq_next {l : Line} {op : LineOp} {s t : State} (h : lineOp l op s = .next t) :
    t = (s.setDriver l (driverAfter op)).logOp l op := by
  rcases lineOp_cases l op s with ⟨-, hf⟩ | ⟨-, hn⟩
  · simp [hf] at h
  · rw [hn] at h
    cases h
    rfl

/-- A line operation that may be used leaves the driver of R30's table. -/
theorem lineOp_completes {l : Line} {op : LineOp} {s : State} (h : misused op (s.driver l) = false) :
    ∃ t, lineOp l op s = .next t ∧ t.driver l = driverAfter op :=
  ⟨_, lineOp_of_legal h, by simp⟩

theorem lineOp_faults {l : Line} {op : LineOp} {s : State} (h : misused op (s.driver l) = true) :
    lineOp l op s = .fault (.lineMisuse l op) :=
  if_pos h

/-- Settles O32: only `driveLow` and `releaseHigh` look at the driver, and only whether it floats. -/
theorem lineOperations : Obligations.LineOperations := by
  intro l s
  refine ⟨lineOp_completes rfl, lineOp_completes rfl, fun hf => ?_, fun hf => ?_, fun op t h => ?_⟩
  · exact ⟨lineOp_faults (by simp [misused, hf]), lineOp_faults (by simp [misused, hf])⟩
  · exact ⟨lineOp_completes (by simp [misused, hf]), lineOp_completes (by simp [misused, hf])⟩
  · cases lineOp_eq_next h
    refine ⟨by simp, fun m hm => by simp [hm], ?_⟩
    cases l <;> rfl

/-- Settles O33: each driver has its level and each value of `STATE` its own code. -/
theorem busLevelsAndStatus : Obligations.BusLevelsAndStatus := by
  intro s
  have hcode (x : TxState) : s.txState = x ↔ statusOut s = stateBits x := ⟨congrArg stateBits, stateBits_injective⟩
  have hlevel (d : Driver) : levelOf d = if d = .outLow then .low else .high := by cases d <;> rfl
  refine ⟨fun l => ?_, hcode .idle, hcode .sending, hcode .receiving, hcode .unused⟩
  cases l
  · exact hlevel s.ld0
  · exact hlevel s.ld1

/-- Settles O37: the fields of the reset state, read off its definition. -/
theorem resetValues : Obligations.ResetValues :=
  ⟨rfl, rfl, rfl, rfl, rfl, rfl, ⟨rfl, rfl⟩, rfl, rfl, rfl, rfl, rfl, rfl⟩

/-! ## The corner cases of `ENCODE_RAW` -/

/-- Settles O14: the raw code's bits, its value as an OR, and R105's numbers evaluated. -/
theorem encodeRawCornerCases : Obligations.EncodeRawCornerCases := by
  intro s facility id hc
  have hraw := packRaw_toNat hc facility id
  refine ⟨_, exec_encodeRaw facility id s, packRaw_getLsbD hc facility id, fun hid => ?_, fun hB => ⟨?_, fun hne => ?_⟩,
    ?_, fun hB => ?_⟩
  · rw [hraw]
    exact hid.trans Nat.right_le_or
  · simpa [hB] using hraw
  · rw [hB]
    bv_omega
  · rintro rfl rfl
    simp [packRaw, zext64]
  · rw [hB]
    rintro (⟨rfl, rfl⟩ | ⟨rfl, rfl⟩)
    · decide
    · decide

/-! ## The carry-over of a wide job -/

section CarryOver

variable {code : Wide} {n : Nat} {s : State}

/-- While the bits under the cursor are those of the high word, `CODE` holds it (41_transmitter.md R158). -/
theorem job_code_high (hj : JobAt code n s) (hn : 32 < n) (hpos : s.pos.toNat ≤ 4 * (n - 33)) :
    s.code = BitVec.ofNat 32 (code.toNat / 2 ^ 32) := by
  have hc := hj.cursor
  rw [CursorAt, if_pos (by omega), if_pos (by omega)] at hc
  rw [← hc.2, BitVec.ofNat_toNat, BitVec.setWidth_eq]

/-- Between the carry-over and the pulse of `code[31]`, `CODE` holds the low word and the cursor stands on its top bit
(R158). -/
theorem job_code_carried (hj : JobAt code n s) (hn : 32 < n) (hlo : 4 * (n - 33) < s.pos.toNat)
    (hhi : s.pos.toNat ≤ 4 * (n - 32)) :
    s.code = BitVec.ofNat 32 code.toNat ∧ s.mask = 0x80000000#32 := by
  have hc := hj.cursor
  rw [show (s.pos.toNat + 3) / 4 = n - 32 by omega, CursorAt, if_pos (by omega), if_neg (by omega),
    show (n - 1 - (n - 32)) % 32 = 31 by omega] at hc
  obtain ⟨hmask, hcode⟩ := hc
  refine ⟨BitVec.eq_of_toNat_eq ?_, BitVec.eq_of_toNat_eq hmask⟩
  rw [hcode, BitVec.toNat_ofNat]

end CarryOver

/-- Settles O47: the job is at the place its ticks give, where the cursor says which word `CODE` holds. -/
theorem carryOverTiming : Obligations.CarryOverTiming := by
  intro code n s hidle hn h64
  obtain ⟨t, hsend, hj, h0, -⟩ := exec_send_starts_job code hidle (by omega) h64
  have hinside {k : Nat} (hk : k ≤ 4 * (n.toNat - 32)) : k < jobTicks n.toNat := by
    rw [jobTicks]
    omega
  refine ⟨t, hsend, fun k hk => ?_, fun k hlo hhi => ?_, ?_⟩
  · obtain ⟨u, hu, hju, rfl⟩ := ticks_inside_job (k := k) hj h0 (hinside (by omega))
    exact ⟨u, hu, job_code_high hju hn hk, cursor_mask_ne hju.cursor⟩
  · obtain ⟨u, hu, hju, rfl⟩ := ticks_inside_job hj h0 (hinside hhi)
    exact ⟨u, hu, job_code_carried hju hn hlo hhi⟩
  · obtain ⟨u, hu, hops, -⟩ := ticks_lines hj h0 (hinside le_rfl)
    refine ⟨u, hu, ?_⟩
    rw [hops, tickTable, if_neg (by omega), if_pos (by omega), pulseLine,
      show n.toNat - 1 - 4 * (n.toNat - 32) / 4 = 31 by omega]
    exact List.mem_singleton_self _

end Sys2Proof.Machine

namespace Sys2Proof.Machine

open Sys2Proof.Safety

/-! ## Runs that no observer tells apart -/

/-- Two states that look alike and, in a job, stand at the same place of the same job. In a job the hidden registers decide what
the next ticks do, but only through its operands and its place. -/
def Alike (s t : State) : Prop :=
  SameVisible s t ∧
    (s.txState = .sending → ∃ code n, JobAt code n s ∧ JobAt code n t ∧ s.pos = t.pos)

/-- Two outcomes from alike states: alike next states, or the same stop. -/
inductive AlikeOutcome : Result → Result → Prop where
  | next {s t : State} (h : Alike s t) : AlikeOutcome (.next s) (.next t)
  | fault (f : Fault) : AlikeOutcome (.fault f) (.fault f)
  | refused (r : Refusal) : AlikeOutcome (.refused r) (.refused r)

theorem sameOutcome_of_alike {o p : Result} (h : AlikeOutcome o p) : SameOutcome o p := by
  cases h with
  | next h => exact h.1
  | fault f => rfl
  | refused r => rfl

section Alike

variable {s t : State}

theorem alike_port (h : Alike s t) (ws : List Request) : Alike { s with port := ws } { t with port := ws } := by
  obtain ⟨hvis, hjob⟩ := h
  refine ⟨{ hvis with port := rfl }, fun hs => ?_⟩
  obtain ⟨code, n, hjs, hjt, hpos⟩ := hjob hs
  exact ⟨code, n, jobAt_port hjs ws, jobAt_port hjt ws, hpos⟩

/-- The same answer keeps alike states alike. -/
theorem alike_answer (h : Alike s t) (r : Response) : Alike (s.openStep.respond r) (t.openStep.respond r) := by
  obtain ⟨hvis, hjob⟩ := h
  refine ⟨{ hvis with response := rfl, lineOps := rfl }, fun hs => ?_⟩
  obtain ⟨code, n, hjs, hjt, hpos⟩ := hjob hs
  exact ⟨code, n, jobAt_answer hjs r, jobAt_answer hjt r, hpos⟩

/-- The same job latched in alike states is the same job at its start, whatever `CODE_EXT` held. -/
theorem alike_latchJob (h : Alike s t) (code : Wide) {n : Byte} (hn : badCount n = false) :
    Alike ((s.openStep.latchJob code n).respond (.accepted true)) ((t.openStep.latchJob code n).respond (.accepted true)) := by
  obtain ⟨hvis, -⟩ := h
  exact ⟨{ hvis with txState := rfl, response := rfl, lineOps := rfl },
    fun _ => ⟨code, n.toNat, jobAt_latchJob s code hn, jobAt_latchJob t code hn, rfl⟩⟩

/-- The drivers after a tick of a job are those of the place it reaches. -/
theorem lines_eq_of_jobAt {code : Wide} {n : Nat} (hs : JobAt code n s) (ht : JobAt code n t) (hpos : s.pos = t.pos)
    (h0 : 0 < s.pos.toNat) : s.ld0 = t.ld0 ∧ s.ld1 = t.ld1 := by
  have hls := hs.lines h0
  have hlt := ht.lines (hpos ▸ h0)
  unfold LinesAt at hls hlt
  rw [← hpos] at hlt
  split_ifs at hls hlt <;> exact ⟨hls.1.trans hlt.1.symm, hls.2.trans hlt.2.symm⟩

/-- A `TICK` in alike states of one job leaves alike states. -/
theorem alike_tick (h : Alike s t) (hsend : s.txState = .sending) : AlikeOutcome (execTick s) (execTick t) := by
  obtain ⟨hvis, hjob⟩ := h
  obtain ⟨code, n, hjs, hjt, hpos⟩ := hjob hsend
  obtain ⟨u, hu⟩ := execTick_of_job hjs
  obtain ⟨v, hv⟩ := execTick_of_job hjt
  obtain ⟨hcu, hpu, hmu⟩ := exec_frame (i := .tick) hu
  obtain ⟨hcv, hpv, hmv⟩ := exec_frame (i := .tick) hv
  have hconfig : u.config = v.config := by rw [hcu, hcv, hvis.config]
  have hport : u.port = v.port := by rw [hpu, hpv, hvis.port]
  have hmark : u.mark = v.mark := by rw [hmu, hmv, hvis.mark]
  have hresp : u.response = v.response := by rw [execTick_response hu, execTick_response hv]
  have hops : u.lineOps = v.lineOps := by rw [job_tick_lineOps hjs hu, job_tick_lineOps hjt hv, hpos]
  have hau := jobAfter_tick hjs hu
  have hav := jobAfter_tick hjt hv
  rw [← hpos] at hav
  rw [hu, hv]
  refine .next ?_
  by_cases hk : s.pos.toNat + 1 < jobTicks n
  · obtain ⟨hju, hposu⟩ := jobAt_of_jobAfter hau hk
    obtain ⟨hjv, hposv⟩ := jobAt_of_jobAfter hav hk
    have hsame : u.pos = v.pos := BitVec.eq_of_toNat_eq (hposu.trans hposv.symm)
    obtain ⟨hld0, hld1⟩ := lines_eq_of_jobAt hju hjv hsame (by omega)
    exact ⟨⟨hconfig, hport, hmark, hju.sending.trans hjv.sending.symm, hld0, hld1, hresp, hops⟩,
      fun _ => ⟨code, n, hju, hjv, hsame⟩⟩
  · have hdu := jobDone_of_jobAfter hau hk
    have hdv := jobDone_of_jobAfter hav hk
    obtain ⟨hfu0, hfu1⟩ := hdu.floating
    obtain ⟨hfv0, hfv1⟩ := hdv.floating
    exact ⟨⟨hconfig, hport, hmark, hdu.idle.trans hdv.idle.symm, hfu0.trans hfv0.symm, hfu1.trans hfv1.symm, hresp, hops⟩,
      fun hs => by simp [hdu.idle] at hs⟩

/-- A request from alike states has alike outcomes (10_state.md R35). -/
theorem alike_exec (h : Alike s t) (i : Instr) : AlikeOutcome (exec i s) (exec i t) := by
  have ⟨hvis, _⟩ := h
  have hanswer (r : Response) : AlikeOutcome (.next (s.openStep.respond r)) (.next (t.openStep.respond r)) :=
    .next (alike_answer h r)
  have hencoder (hi : i.opCode = .encodeRaw ∨ i.opCode = .addParity ∨ i.opCode = .code) :
      AlikeOutcome (exec i s) (exec i t) := by
    obtain ⟨value, hvalue⟩ := encoderIsStateless i s.config.encBits hi
    rw [hvalue s rfl, hvalue t (by rw [hvis.config])]
    exact hanswer (.result value)
  cases i with
  | encodeRaw facility id => exact hencoder (.inl rfl)
  | addParity raw => exact hencoder (.inr (.inl rfl))
  | code facility id => exact hencoder (.inr (.inr rfl))
  | send code n =>
    show AlikeOutcome (execSend code n s) (execSend code n t)
    by_cases hidle : s.txState = .idle
    · have hidle' : t.txState = .idle := hvis.txState ▸ hidle
      cases hb : badCount n with
      | true =>
        rw [execSend_bad hidle code hb, execSend_bad hidle' code hb]
        exact .fault _
      | false =>
        rw [execSend_good hidle code hb, execSend_good hidle' code hb]
        exact .next (alike_latchJob h code hb)
    · rw [execSend_busy hidle, execSend_busy (hvis.txState ▸ hidle)]
      exact hanswer _
  | tick =>
    show AlikeOutcome (execTick s) (execTick t)
    by_cases hsend : s.txState = .sending
    · exact alike_tick h hsend
    · rw [execTick_outside hsend, execTick_outside (hvis.txState ▸ hsend)]
      exact hanswer .silent

/-- A step from alike states has alike outcomes: the mark, the build and the next word are visible. -/
theorem alike_step (h : Alike s t) : AlikeOutcome (step s) (step t) := by
  have ⟨hvis, _⟩ := h
  cases hm : s.mark with
  | faulted f =>
    rw [step_of_faulted hm, step_of_faulted (hvis.mark ▸ hm)]
    exact .fault f
  | refused r =>
    rw [step_of_refused hm, step_of_refused (hvis.mark ▸ hm)]
    exact .refused r
  | clear =>
    have hm' : t.mark = .clear := hvis.mark ▸ hm
    by_cases hc : s.config.Legal
    swap
    · rw [step_of_illegal hm hc, step_of_illegal hm' (hvis.config ▸ hc), hvis.config]
      exact .refused _
    have hc' : t.config.Legal := hvis.config ▸ hc
    cases hp : s.port with
    | nil =>
      rw [step_of_empty_port hm hc hp, step_of_empty_port hm' hc' (hvis.port ▸ hp)]
      exact .next h
    | cons w rest =>
      rw [step_of_request hm hc hp, step_of_request hm' hc' (hvis.port ▸ hp)]
      cases hd : decode w with
      | ok i => exact alike_exec (alike_port h rest) i
      | error e => exact .refused (refusalOf e)

/-- A run from alike states has alike outcomes. -/
theorem alike_run (h : Alike s t) (k : Nat) :
    AlikeOutcome (Host.Core.run core k s) (Host.Core.run core k t) := by
  induction k generalizing s t with
  | zero => exact .next h
  | succ k ih =>
    have hstep := alike_step h
    generalize hs : step s = o, ht : step t = p at hstep
    cases hstep with
    | next huv =>
      rw [run_of_next hs, run_of_next ht]
      exact ih huv
    | fault f =>
      rw [run_of_fault hs, run_of_fault ht]
      exact .fault f
    | refused r =>
      rw [run_of_refused hs, run_of_refused ht]
      exact .refused r

end Alike

/-- Settles O49: `IDLE` states that look alike are alike, and a job started later is the same in both runs. -/
theorem hiddenRegistersUnobservable : Obligations.HiddenRegistersUnobservable := by
  intro s t k hvis hidle
  have halike : Alike s t := ⟨hvis, fun hs => by simp [hidle] at hs⟩
  exact sameOutcome_of_alike (alike_run halike k)

/-! ## Runs without a tick -/

/-- In `SENDING` a step that performs no `TICK` takes its word off the port and answers, nothing else
(70_reset_and_hazards.md R196). -/
theorem step_without_tick {s t : State} (hs : s.txState = .sending)
    (hno : ∀ w ∈ s.port, decode w ≠ .ok .tick) (h : step s = .next t) :
    t = { s with port := s.port.drop 1, response := t.response, lineOps := t.lineOps } := by
  obtain ⟨-, -, ⟨hp, rfl⟩ | ⟨w, rest, i, hp, hd, hx⟩⟩ := step_eq_next h
  · rw [show t.port.drop 1 = t.port by simp [hp]]
  · rcases exec_eq_next hx with ⟨r, rfl⟩ | ⟨hidle, -⟩ | ⟨-, rfl, -⟩
    · rw [hp]
      rfl
    · exact absurd (hidle.symm.trans hs) TxState.noConfusion
    · exact absurd hd (hno w (by simp [hp]))

/-- In `SENDING` a run that performs no `TICK` changes the port and the outputs alone. -/
theorem run_without_ticks {s t : State} (k : Nat) (hs : s.txState = .sending)
    (hno : ∀ w ∈ s.port, decode w ≠ .ok .tick) (h : Host.Core.run core k s = .next t) :
    t = { s with port := s.port.drop k, response := t.response, lineOps := t.lineOps } := by
  induction k generalizing t with
  | zero =>
    cases h
    rfl
  | succ k ih =>
    obtain ⟨u, hu, hst⟩ := andThen_eq_next.1 ((run_succ k s).symm.trans h)
    have hus := ih hu
    have hport : u.port = s.port.drop k := by rw [hus]
    have hsend : u.txState = .sending := by rw [hus]; exact hs
    have hlast := step_without_tick hsend (fun w hw => hno w (List.mem_of_mem_drop (hport ▸ hw))) hst
    rw [hport, List.drop_drop] at hlast
    rw [hlast, hus]

/-- Settles O53: without a `TICK` the job stays where it is, and the block stays busy. -/
theorem stoppedTicksLeaveTheJob : Obligations.StoppedTicksLeaveTheJob := by
  intro s t k code n hs hno h
  have ht := run_without_ticks k hs hno h
  have hbusy : t.txState ≠ .idle := by rw [ht]; simp [hs]
  exact ⟨ht, execSend_busy hbusy code n⟩

end Sys2Proof.Machine

namespace Sys2Proof.Machine

open Sys2Proof.Safety

/-! ## The pulses of a range of bits -/

/-- The lines that carry `v[lo], ..., v[lo+n-1]`, most significant bit first (41_transmitter.md R145, R154). -/
def bitLines {w : Nat} (v : BitVec w) (lo n : Nat) : List Line :=
  (List.range n).map fun j => lineFor (v.getLsbD (lo + n - 1 - j))

@[simp] theorem bitLines_length {w : Nat} (v : BitVec w) (lo n : Nat) : (bitLines v lo n).length = n := by
  simp [bitLines]

theorem bitLines_one {w : Nat} (v : BitVec w) (lo : Nat) : bitLines v lo 1 = [lineFor (v.getLsbD lo)] := rfl

/-- A range of bits goes out as its upper part and then its lower part. -/
theorem bitLines_add {w : Nat} (v : BitVec w) (lo a b : Nat) :
    bitLines v lo (a + b) = bitLines v (lo + b) a ++ bitLines v lo b := by
  simp only [bitLines, List.range_add, List.map_append, List.map_map]
  congr 1
  · simp only [show lo + (a + b) = lo + b + a by omega]
  · refine List.map_congr_left fun j _ => ?_
    rw [Function.comp_apply, show lo + (a + b) - 1 - (a + j) = lo + b - 1 - j by omega]

theorem take_bitLines {w : Nat} (v : BitVec w) (lo a b : Nat) :
    (bitLines v lo (a + b)).take a = bitLines v (lo + b) a := by
  rw [bitLines_add]
  exact List.take_left' (bitLines_length v _ a)

theorem drop_bitLines {w : Nat} (v : BitVec w) (lo a b : Nat) :
    (bitLines v lo (a + b)).drop a = bitLines v lo b := by
  rw [bitLines_add]
  exact List.drop_left' (bitLines_length v _ a)

/-- The pulses depend only on the bits sent. -/
theorem bitLines_congr {w w' : Nat} {v : BitVec w} {v' : BitVec w'} {lo lo' n : Nat}
    (h : ∀ i < n, v.getLsbD (lo + i) = v'.getLsbD (lo' + i)) : bitLines v lo n = bitLines v' lo' n := by
  refine List.map_congr_left fun j hj => ?_
  have hlt := List.mem_range.1 hj
  rw [show lo + n - 1 - j = lo + (n - 1 - j) by omega, show lo' + n - 1 - j = lo' + (n - 1 - j) by omega,
    h _ (by omega)]

/-- Zero bits go out on D0. -/
theorem bitLines_of_clear {w : Nat} {v : BitVec w} {lo n : Nat} (h : ∀ i < n, v.getLsbD (lo + i) = false) :
    bitLines v lo n = List.replicate n .d0 := by
  refine List.eq_replicate_iff.2 ⟨bitLines_length v lo n, fun l hl => ?_⟩
  obtain ⟨j, hj, rfl⟩ := List.mem_map.1 hl
  have hlt := List.mem_range.1 hj
  rw [show lo + n - 1 - j = lo + (n - 1 - j) by omega, h _ (by omega)]
  rfl

/-- The D1 pulses of a range are its ones. -/
theorem count_bitLines (v : Wide) (lo n : Nat) : (bitLines v lo n).count .d1 = ones v lo n := by
  rw [bitLines, List.count, List.countP_map, ← ones_rev]
  refine List.countP_congr fun j _ => ?_
  simp [lineFor]

/-- A `SEND` of a legal width in `IDLE` starts a job that pulses the low bits of its code (41_transmitter.md R154). -/
theorem send_pulses {s : State} (hidle : s.txState = .idle) (code : Wide) {n : Nat} (h1 : 1 ≤ n) (h64 : n ≤ 64) :
    ∃ t, exec (.send code (BitVec.ofNat 8 n)) s = .next t ∧ pulses (ticksOps (jobTicks n) t) = bitLines code 0 n := by
  have hn : (BitVec.ofNat 8 n).toNat = n := by
    rw [BitVec.toNat_ofNat]
    omega
  obtain ⟨t, ht, hp⟩ := Transmitter.pulsesInBitOrder code (BitVec.ofNat 8 n) s hidle (hn.symm ▸ h1) (hn.symm ▸ h64)
  rw [hn] at hp
  refine ⟨t, ht, ?_⟩
  rw [hp, bitLines, Nat.zero_add]
  rfl

/-! ## The fields of a `CODE` result -/

section Frame

variable {c : Config} (hc : c.Legal)

include hc

/-- The on-the-wire code goes out as even parity bit, facility, id and odd parity bit (40_encoder.md R115). -/
theorem bitLines_wire (wire : Wide) : bitLines wire 0 c.encBits =
    bitLines wire (c.encBits - 1) 1 ++ bitLines wire (c.encBits - 9) 8 ++ bitLines wire 1 (c.encBits - 10) ++
      bitLines wire 0 1 := by
  obtain ⟨m, hm⟩ := Nat.exists_eq_add_of_le hc.2.1
  rw [hm, show 10 + m - 1 = 8 + (m + 1) by omega, show 10 + m - 9 = m + 1 by omega, show 10 + m - 10 = m by omega,
    show 10 + m = 1 + (8 + (m + 1)) by omega, bitLines_add, bitLines_add, bitLines_add]
  simp only [Nat.zero_add, List.append_assoc]

theorem bitLines_id (f : Byte) (id : Wide) :
    bitLines (attachParity c.encBits (packRaw c.encBits f id)) 1 (c.encBits - 10) = bitLines id 0 (c.encBits - 10) := by
  have ⟨_, h10, h64⟩ := hc
  refine bitLines_congr fun i hi => ?_
  rw [Nat.add_comm 1, attachParity_getLsbD_succ hc _ (by omega) (by omega), packRaw_getLsbD hc]
  simp [show ¬ c.encBits - 10 ≤ i by omega]

/-- The second half of the frame holds an odd number of D1 pulses, for every raw code (R110). -/
theorem frame_second_half (raw : Wide) : ((bitLines (attachParity c.encBits raw) 0 c.encBits).drop
    (c.encBits / 2)).count .d1 % 2 = 1 := by
  have ⟨heven, h10, _⟩ := hc
  have hgroup := attachParity_odd_group hc raw
  rw [Nat.add_comm, ← ones_head, show c.encBits / 2 - 1 + 1 = c.encBits / 2 by omega] at hgroup
  have hdrop := drop_bitLines (attachParity c.encBits raw) 0 (c.encBits / 2) (c.encBits / 2)
  rw [show c.encBits / 2 + c.encBits / 2 = c.encBits by omega] at hdrop
  rw [hdrop, count_bitLines, hgroup]

variable (f : Byte) {id : Wide} (hid : id.toNat < 2 ^ (c.encBits - 10))

include hid

theorem bitLines_facility :
    bitLines (attachParity c.encBits (packRaw c.encBits f id)) (c.encBits - 9) 8 = bitLines f 0 8 := by
  have ⟨_, h10, h64⟩ := hc
  refine bitLines_congr fun i hi => ?_
  rw [show c.encBits - 9 + i = c.encBits - 10 + i + 1 by omega, attachParity_getLsbD_succ hc _ (by omega) (by omega),
    packRaw_getLsbD hc, getLsbD_eq_false_of_lt hid (by omega)]
  simp

/-- The first half of the frame holds an even number of D1 pulses (R110). -/
theorem frame_first_half : ((bitLines (attachParity c.encBits (packRaw c.encBits f id)) 0 c.encBits).take
    (c.encBits / 2)).count .d1 % 2 = 0 := by
  have ⟨heven, h10, _⟩ := hc
  have hgroup := attachParity_even_group hc (getLsbD_eq_false_of_lt (packRaw_lt hc f hid) le_rfl)
  rw [show c.encBits - 1 = c.encBits / 2 - 1 + 1 + (c.encBits / 2 - 1) by omega, ← ones_succ,
    show c.encBits / 2 - 1 + 1 = c.encBits / 2 by omega] at hgroup
  have htake := take_bitLines (attachParity c.encBits (packRaw c.encBits f id)) 0 (c.encBits / 2) (c.encBits / 2)
  rw [show c.encBits / 2 + c.encBits / 2 = c.encBits by omega, Nat.zero_add] at htake
  rw [htake, count_bitLines, hgroup]

end Frame

/-! ## The statements of 40_encoder.md and 70_reset_and_hazards.md on frames -/

/-- Settles O50: the job pulses the bits of the `CODE` result, whose fields and parity groups the Encoder fixes. -/
theorem wiegandFrameOnTheWire : Obligations.WiegandFrameOnTheWire := by
  intro s f id hc hidle hid B lineOf
  have hlineOf : lineOf = lineFor := rfl
  let wire := attachParity B (packRaw B f id)
  obtain ⟨t, hsend, hpulses⟩ := send_pulses hidle wire (n := B) (by have := hc.2.1; omega) hc.2.2
  refine ⟨wire, t, wire.getLsbD (B - 1), wire.getLsbD 0, exec_code f id s, hsend, ?_⟩
  rw [hpulses]
  refine ⟨?_, frame_first_half hc f hid, frame_second_half hc _⟩
  rw [bitLines_wire hc wire, bitLines_facility hc f hid, bitLines_id hc f id, bitLines_one, bitLines_one, hlineOf]
  simp only [bitLines, Nat.zero_add, Nat.sub_sub]
  rfl

/-- Settles O51: both jobs pulse the low bits of the same code, which has no bit at or above `ENC_BITS`. -/
theorem framesOfOtherWidths : Obligations.FramesOfOtherWidths := by
  intro s f id n hc hidle hid h1 h64 B
  let wire := attachParity B (packRaw B f id)
  have hwire : wire.toNat < 2 ^ B := attachParity_lt hc (packRaw_lt hc f hid)
  obtain ⟨t, hsendB, hpulsesB⟩ := send_pulses hidle wire (n := B) (by have := hc.2.1; omega) hc.2.2
  obtain ⟨u, hsend, hpulses⟩ := send_pulses hidle wire h1 h64
  refine ⟨wire, t, u, exec_code f id s, hsendB, hsend, ?_⟩
  rw [hpulses, hpulsesB]
  split_ifs with hle
  · have hsplit := bitLines_add wire 0 (n - B) B
    rwa [Nat.sub_add_cancel hle, Nat.zero_add,
      bitLines_of_clear fun i _ => getLsbD_eq_false_of_lt hwire (Nat.le_add_right B i)] at hsplit
  · have hdrop := drop_bitLines wire 0 (B - n) n
    rw [Nat.sub_add_cancel (by omega)] at hdrop
    exact hdrop.symm

end Sys2Proof.Machine
